-- ==== Sys2Proof/Word.lean ====
section
/-! DEFINITION. The two word types: the 32-bit word of every host-visible register and of the command word
(00_scope.md R5 `WORD_BITS`), and the byte of the shift register and the transaction buffer (R5 `DATA_BITS`). -/

namespace Sys2Proof

/-- A host-visible register's value, or a command word (R5, R72). -/
abbrev Word := BitVec 32

/-- A byte of the bus, the shift register or the transaction buffer (R5). -/
abbrev Byte := BitVec 8

end Sys2Proof
end

