-- ==== Sys2Proof/Syntax.lean ====
section
/-! DEFINITION. The commands of the engine (30_encoding.md R71, one constructor per row of spec/opcode_table.json)
and the outcomes of a command (00_scope.md R8). -/

namespace Sys2Proof

/-- The eight commands (R71, R73). Operands at their own widths, unsigned (R74). -/
inductive Instr where
  /-- INIT (R75, R89). -/
  | init
  /-- START (R75, R91). -/
  | start
  /-- STOP (R75, R93). -/
  | stop
  /-- TRANSFER, `n` the bit count ARG[3:0] (R76, R96). -/
  | transfer (n : BitVec 4)
  /-- READ_BYTE, `more` ARG[0]: another byte is expected (R77, R103). -/
  | readByte (more : Bool)
  /-- WRITE_BYTE, `value` ARG[7:0] (R78, R107). -/
  | writeByte (value : Byte)
  /-- WRITE_TXN: target ADDR, STOP, COUNT (R79, R113). -/
  | writeTxn (addr : BitVec 7) (stop : Bool) (count : BitVec 8)
  /-- READ_TXN: target ADDR, STOP, COUNT (R79, R117). -/
  | readTxn (addr : BitVec 7) (stop : Bool) (count : BitVec 8)
  deriving DecidableEq, Repr

/-- `Status` (R8): the outcome of an operation. -/
inductive Status where
  | ok
  | unknownStart
  | unknownStop
  | dataCollision
  | missingStartCondition
  | missingStopCondition
  | slaveNack
  deriving DecidableEq, Repr

end Sys2Proof
end

