-- ==== Sys2Proof/WellFormed.lean ====
section
/-! DEFINITION. Which commands have an encoding that is not reserved (30_encoding.md R76, R79, R84). The other
conditions of R84 (opcode, unused fields, ARG[7:1] of READ_BYTE) are about words and cannot fail of a syntax term. -/

namespace Sys2Proof

/-- R84: TRANSFER needs `N` in 1..8 and READ_TXN needs COUNT ≥ 1; every other command is well formed. -/
def wellFormed : Instr → Bool
  | .init => true
  | .start => true
  | .stop => true
  | .transfer n => decide (1 ≤ n.toNat) && decide (n.toNat ≤ 8)
  | .readByte _ => true
  | .writeByte _ => true
  | .writeTxn _ _ _ => true
  | .readTxn _ _ count => decide (1 ≤ count.toNat)

/-- `wellFormed` as a proposition. -/
abbrev WellFormed (i : Instr) : Prop := wellFormed i = true

end Sys2Proof
end

