-- ==== Sys2Proof/Decode.lean ====
section
/-! DEFINITION. The encodings of 30_encoding.md: the command word's fields (R72), the decoder (R73 to R79), which is
total on 32-bit words and rejects a reserved word (R84) by name, the encoder, and the 8-bit status codes (R80). -/

namespace Sys2Proof

/-- Why a command word is reserved (R84). -/
inductive Reserved where
  /-- OP is 0x0 or 0x9..0xF. -/
  | opcode
  /-- A field the command does not use is not 0 (bits [19:16] and ARG bits above the operand among them). -/
  | unusedField
  /-- TRANSFER with N not in 1..8. -/
  | bitCount
  /-- READ_TXN with COUNT = 0. -/
  | readCount
  deriving DecidableEq, Repr

/-- OP, bits [31:28] (R72). -/
def opField (w : Word) : BitVec 4 := w.extractLsb' 28 4

/-- ADDR, bits [27:21] (R72). -/
def addrField (w : Word) : BitVec 7 := w.extractLsb' 21 7

/-- STOP, bit [20] (R72). -/
def stopField (w : Word) : Bool := w.getLsbD 20

/-- The reserved bits [19:16] (R72). -/
def reservedField (w : Word) : BitVec 4 := w.extractLsb' 16 4

/-- COUNT, bits [15:8] (R72). -/
def countField (w : Word) : BitVec 8 := w.extractLsb' 8 8

/-- ARG, bits [7:0] (R72). -/
def argField (w : Word) : BitVec 8 := w.extractLsb' 0 8

/-- ADDR, STOP, COUNT are all 0, as in every command that is no transaction (R72, R84). -/
def noTxnFields (w : Word) : Bool :=
  decide (addrField w = 0) && !stopField w && decide (countField w = 0)

/-- A word accepted when the fields its command does not use are 0 (R84). -/
def whenUnusedZero (unusedZero : Bool) (i : Instr) : Except Reserved Instr :=
  if unusedZero then .ok i else .error .unusedField

/-- The decoder: OP first, then the fields (R73 to R79, R86); a reserved word (R84) is rejected by name. -/
def decode (w : Word) : Except Reserved Instr :=
  match (opField w).toNat with
  | 1 => whenUnusedZero (noTxnFields w && decide (reservedField w = 0) && decide (argField w = 0)) .init
  | 2 => whenUnusedZero (noTxnFields w && decide (reservedField w = 0) && decide (argField w = 0)) .start
  | 3 => whenUnusedZero (noTxnFields w && decide (reservedField w = 0) && decide (argField w = 0)) .stop
  | 4 =>
    let n := (argField w).extractLsb' 0 4
    if noTxnFields w && decide (reservedField w = 0) && decide ((argField w).extractLsb' 4 4 = 0) then
      if wellFormed (.transfer n) then .ok (.transfer n) else .error .bitCount
    else .error .unusedField
  | 5 =>
    whenUnusedZero (noTxnFields w && decide (reservedField w = 0) && decide ((argField w).extractLsb' 1 7 = 0))
      (.readByte ((argField w).getLsbD 0))
  | 6 => whenUnusedZero (noTxnFields w && decide (reservedField w = 0)) (.writeByte (argField w))
  | 7 =>
    whenUnusedZero (decide (reservedField w = 0) && decide (argField w = 0))
      (.writeTxn (addrField w) (stopField w) (countField w))
  | 8 =>
    if decide (reservedField w = 0) && decide (argField w = 0) then
      if wellFormed (.readTxn (addrField w) (stopField w) (countField w)) then
        .ok (.readTxn (addrField w) (stopField w) (countField w))
      else .error .readCount
    else .error .unusedField
  | _ => .error .opcode

/-- The one format (R72): OP ++ ADDR ++ STOP ++ 0000 ++ COUNT ++ ARG. -/
def commandWord (op : BitVec 4) (addr : BitVec 7) (stop : Bool) (count arg : BitVec 8) : Word :=
  op ++ addr ++ BitVec.ofBool stop ++ (0#4) ++ count ++ arg

/-- The word of a command (R73 to R79, R87). -/
def encode : Instr → Word
  | .init => commandWord 0x1 0 false 0 0
  | .start => commandWord 0x2 0 false 0 0
  | .stop => commandWord 0x3 0 false 0 0
  | .transfer n => commandWord 0x4 0 false 0 (0#4 ++ n)
  | .readByte more => commandWord 0x5 0 false 0 (0#7 ++ BitVec.ofBool more)
  | .writeByte value => commandWord 0x6 0 false 0 value
  | .writeTxn addr stop count => commandWord 0x7 addr stop count 0
  | .readTxn addr stop count => commandWord 0x8 addr stop count 0

/-- The decoder on a row of the opcode table: `w` holds the instruction's bits as the table numbers them; every
command is one 32-bit word (R86), and every bit from `nbits` up is 0. -/
def decodeTableWord (nbits w : Nat) : Option Instr :=
  (decode (BitVec.ofNat 32 (w % 2 ^ nbits))).toOption

/-- `enc : Status -> 8 bits` (R80). -/
def encStatus : Status → Byte
  | .ok => 0
  | .unknownStart => 1
  | .unknownStop => 2
  | .dataCollision => 3
  | .missingStartCondition => 4
  | .missingStopCondition => 5
  | .slaveNack => 6

/-- A transient status (42_transaction_layer.md R112; the fault classes of 00_scope.md R13). -/
def isTransient : Status → Bool
  | .unknownStart | .unknownStop | .dataCollision => true
  | .ok | .missingStartCondition | .missingStopCondition | .slaveNack => false

end Sys2Proof
end

