-- ==== Sys2Proof/Config.lean ====
section
/-! DEFINITION. What is fixed for this hardware (00_scope.md R5), and what the spec leaves open: the OPEN parameters
and the free values. A free value is an opaque constant without a body: no proof can see what it is. -/

namespace Sys2Proof

/-- `RETRY_MAX` (R5, R111): the number of START attempts a transaction makes at most. -/
def Config.retryMax : Nat := 3

/-- `BUF_LEN` (R5, R55): the number of bytes of the transaction buffer. -/
def Config.bufLen : Nat := 256

/-- The size in bytes of the engine's register space, offsets 0x000 to 0x7FF (20_memory.md R53). -/
def Config.regSpaceBytes : Nat := 0x800

/-- `CHECK_PENDING` (R5, OPEN, D19): START checks for pending flags first. Log 4. -/
opaque Config.checkPending : Bool

/-- `VERIFY_START` (R5, OPEN, D19): START checks that its condition was latched. Log 4. -/
opaque Config.verifyStart : Bool

/-- `VERIFY_STOP` (R5, OPEN, D19): STOP checks that its condition was latched. Log 4. -/
opaque Config.verifyStop : Bool

/-- `T_SETUP` (R5, R44): the duration of the setup delay. No rule reads it. Log 16. -/
opaque Config.tSetup : Nat

/-- `T_HOLD` (R5, R44): the duration of the hold delay. No rule reads it. Log 16. -/
opaque Config.tHold : Nat

/-- `ENGINE_BASE` (R53, OPEN): where the platform puts the engine's register space. Log 20. -/
opaque Config.engineBase : Nat

/-- The contents of the transaction buffer after a reset: `Config.bufAtReset e i` is what byte `i` holds after reset
number `e` until it is written. The spec: "BUF contents unspecified", "any value" (10_state.md R17, 70 R151). Log 5. -/
opaque Config.bufAtReset : Nat → Nat → Byte

/-- What a host read of the BUF window returns while BUSY = 1: `Config.busyRead d` is the value of the `d`-th such
read. The spec: "a host read returns any value" (10_state.md R52, 70 R158). Log 6. -/
opaque Config.busyRead : Nat → Word

end Sys2Proof
end

