-- ==== Sys2Proof/Machine/State.lean ====
section
/-! DEFINITION. The state of the engine and of what surrounds it, as plain data (10_state.md R15 to R28), the steps
the agents can take, the ways a step can stop, and the state right after reset (10_state.md R17, 70 R151). One-bit
fields are `Bool`: true = 1 = high = released, false = 0 = low = driven low (00_scope.md R6). -/

namespace Sys2Proof.Machine

open Sys2Proof

/-- The (µ) steps of `Start()` (40_signal_layer.md R91), in order. -/
inductive StartPos where
  | check | dataHigh | clockHigh | setup | dataLow | hold | clockLow | dataRelease | verify
  deriving DecidableEq, Repr

/-- The (µ) steps of `Stop()` (R93), in order. -/
inductive StopPos where
  | dataLow | clockRelease | waitHigh | hold | dataRelease | setup | verify
  deriving DecidableEq, Repr

/-- The (µ) steps of `Transfer(n)` (R96): the preload, the six of a bit, and the two of the epilogue. -/
inductive XferPos where
  | preload | setup | toggle | sample | hold | toggleBack | shift | capture | dirOut
  deriving DecidableEq, Repr

/-- The (µ) steps of `ReadByte(more)` (41_byte_layer.md R103): its own, and those of its two Transfers. -/
inductive ReadPos where
  | dirIn
  | data (p : XferPos)
  | dirOut
  | loadAck
  | ack (p : XferPos)
  deriving DecidableEq, Repr

/-- The (µ) steps of `WriteByte(v)` (R107): its own, and those of its two Transfers. -/
inductive WritePos where
  | clockLow
  | load
  | data (p : XferPos)
  | dirIn
  | ack (p : XferPos)
  deriving DecidableEq, Repr

/-- The position in a command's pseudocode: which (µ) step is next (R9, R16). -/
inductive Pos where
  /-- INIT's one step (R89). -/
  | init
  /-- In `Start()`, of START or of a transaction's attempt. -/
  | start (p : StartPos)
  /-- In `Stop()`, of STOP or of a transaction's trailing stop. -/
  | stop (p : StopPos)
  /-- In the Transfer of the TRANSFER command. -/
  | transfer (p : XferPos)
  /-- In `ReadByte`, of READ_BYTE or of a READ_TXN's byte. -/
  | readByte (p : ReadPos)
  /-- In `WriteByte`, of WRITE_BYTE or of a WRITE_TXN's payload byte. -/
  | writeByte (p : WritePos)
  /-- In the `WriteByte` of a transaction's address byte. -/
  | addrByte (p : WritePos)
  /-- READ_TXN's step `BUF[i] <- b` (R117, R119). -/
  | store
  /-- The command's `finish` step (R48). -/
  | finish
  deriving DecidableEq, Repr

/-- The local variables of a command's procedures (R10, R16). -/
structure Locals where
  /-- START attempts begun by this transaction, 0..RETRY_MAX (R113). -/
  attempt : Nat
  /-- The byte index, 0..255 (R113, R117). -/
  i : BitVec 8
  /-- The last procedure's status (R91, R93, R107). -/
  s : Status
  /-- The transaction's status (R113, R117). -/
  status : Status
  /-- What the last Transfer captured (R96). -/
  result : Byte
  /-- The byte ReadByte received (R103). -/
  b : Byte
  deriving DecidableEq, Repr

/-- The sequencer state while a command runs (R16): the latched command word, the position, the locals. -/
structure Sequencer where
  curCmd : Word
  pos : Pos
  loc : Locals
  deriving DecidableEq, Repr

/-- The OPEN Boolean parameters of 00_scope.md R5. -/
structure Params where
  checkPending : Bool
  verifyStart : Bool
  verifyStop : Bool
  deriving DecidableEq, Repr

/-- The two lines of the bus (R12). -/
inductive Line where
  | scl
  | sda
  deriving DecidableEq, Repr

/-- The sensed levels of the two lines (R30, R31). -/
structure Levels where
  scl : Bool
  sda : Bool
  deriving DecidableEq, Repr

/-- One host access to the engine's register space (20_memory.md R53, R58): a byte offset, a width in bytes and, for
a write, the value. -/
inductive Access where
  /-- `MemRead(off, width)`. -/
  | read (off width : Nat)
  /-- `MemWrite(off, width, value)`. -/
  | write (off width : Nat) (value : Word)
  deriving DecidableEq, Repr

/-- One step of one agent (R60 to R63), or a reset (R151). -/
inductive Event where
  /-- The engine's turn. -/
  | engine
  /-- The environment pulls (`low`) or lets go of one line (R63). -/
  | env (line : Line) (low : Bool)
  /-- The host makes one register access (R62). -/
  | host (a : Access)
  /-- Reset (R151). -/
  | reset
  deriving DecidableEq, Repr

/-- The whole state. The first group is the spec's (R17), the second the environment's two inputs (R28), the third the
OPEN parameters (R5), the last the model's own. -/
structure State where
  /-- CFG: INIT has configured the shift-transfer mode (R20). -/
  cfg : Bool
  /-- SCL_DIR: the clock driver is an output (R18). -/
  sclDir : Bool
  /-- SCL_PORT: release the clock (R18). -/
  sclPort : Bool
  /-- SDA_DIR: the data driver is an output (R19). -/
  sdaDir : Bool
  /-- SDA_PORT: release the data line (R19). -/
  sdaPort : Bool
  /-- SR, the shift register (R21). -/
  sr : Byte
  /-- LATCH, the sampled data level (R22). -/
  latch : Bool
  /-- CNT, the bit countdown (R23). -/
  cnt : BitVec 4
  /-- OIF, the countdown-complete flag (R24). -/
  oif : Bool
  /-- SIF, the start-condition flag (R25). -/
  sif : Bool
  /-- PF, the stop-condition flag (R26). -/
  pf : Bool
  /-- BUSY: a command runs (R27). -/
  busy : Bool
  /-- CODE, the status of the last finished command (R27, R80). -/
  code : Byte
  /-- RXDATA, the byte of the last TRANSFER or READ_BYTE (R27, R49). -/
  rxdata : Byte
  /-- CURCMD and the sequencer; `none` is "empty" (R16). -/
  seq : Option Sequencer
  /-- BUF (R55), as a canonical list of the bytes written since reset. -/
  buf : List Host.Cell
  /-- ENV_SCL_LOW: another device pulls the clock low (R28). -/
  envSclLow : Bool
  /-- ENV_SDA_LOW: another device pulls the data line low (R28). -/
  envSdaLow : Bool
  /-- CHECK_PENDING, VERIFY_START, VERIFY_STOP (R5). -/
  params : Params
  /-- The model's own: what the host's last read returned (log 10). -/
  hostData : Word
  /-- The model's own: free values drawn by BUF reads while BUSY = 1 (log 6). -/
  draws : Nat
  /-- The model's own: resets taken, the index of BUF's unspecified contents (log 5). -/
  epoch : Nat
  /-- The model's own: the agents' coming steps, in order (R61; log 2). -/
  agenda : List Event
  /-- The model's own: the levels the lines went through, newest first (R167; log 15). -/
  wire : List Levels
  deriving DecidableEq, Repr

/-- Why the machine stops with a fault. -/
inductive Fault where
  /-- The engine waits at `WaitSclHigh` for a clock it pulls low itself (60_exceptions.md R138, D32). Raised by TRANSFER
  and READ_BYTE, at the engine's turn. Safe: the spec says that the engine never steps again. -/
  | hangOwnClock
  /-- The sequencer's position is none of the running command's, or BUSY = 1 with an empty sequencer. Raised by every
  meaning; no run from reset reaches it (log 9). Safe: the machine stops. -/
  | badSequencer
  deriving DecidableEq, Repr

/-- Why a request has no meaning (60_exceptions.md R141, R142). -/
inductive Refusal where
  /-- An instruction of the table that exec gives no meaning yet. Safe: nothing is claimed of it. -/
  | notModelled (mnemonic : String)
  /-- A reserved command word (R84, R142). Raised by a CMD write, by the engine's turn on a latched reserved word, and by
  TRANSFER and READ_TXN on a reserved operand. Safe (R141). -/
  | reservedCommand
  /-- A CMD write of any command but INIT while CFG = 0 (R142). Safe (R141). -/
  | notInitialised
  /-- A CMD write while BUSY = 1 (R142). Safe (R141). -/
  | commandWhileBusy
  /-- A BUF write while BUSY = 1 (R142). Safe (R141). -/
  | bufferWriteWhileBusy
  /-- A host access at a reserved offset (R59, R142). Safe (R141). -/
  | reservedOffset
  /-- A host access of a width other than 4, or misaligned (R57, R142). Safe (R141). -/
  | badAccess
  deriving DecidableEq, Repr

/-- Right after reset (R17, R151). The two inputs of the environment, the parameters and the model's own fields take the
values logs 3, 4, 5, 6, 10, 2 and 15 name. -/
def State.reset : State where
  cfg := false
  sclDir := false
  sclPort := true
  sdaDir := false
  sdaPort := true
  sr := 0xFF
  latch := true
  cnt := 0
  oif := false
  sif := false
  pf := false
  busy := false
  code := 0x00
  rxdata := 0x00
  seq := none
  buf := []
  envSclLow := false
  envSdaLow := false
  params :=
    { checkPending := Config.checkPending, verifyStart := Config.verifyStart, verifyStop := Config.verifyStop }
  hostData := 0
  draws := 0
  epoch := 0
  agenda := []
  wire := [{ scl := true, sda := true }]

end Sys2Proof.Machine
end

