-- ==== Sys2Proof/Machine/Ops.lean ====
section
/-! DEFINITION. The named operations on lines, registers and the transaction buffer: sensing (10_state.md R29 to R31),
the detector (R33 to R35), the micro-operations (R38 to R44), BUF (20_memory.md R55), and how a command begins and ends
(R46, R48). The hardware takes no exception and returns from none (60_exceptions.md R136, R144, R145); the one shared
end of every command, with or without a fault status, is `finish`. -/

namespace Sys2Proof.Machine

open Sys2Proof

/-! ## The lines -/

/-- `scl_low_e`: the engine pulls the clock line low (R18, R29). -/
def sclPulled (s : State) : Bool := s.sclDir && !s.sclPort

/-- `sda_low_e`: the engine pulls the data line low, by the port or by SR[7] (R19, R29). -/
def sdaPulled (s : State) : Bool := s.sdaDir && (!s.sdaPort || !s.sr.getLsbD 7)

/-- `SCL`, the sensed clock level (R30). -/
def sclLevel (s : State) : Bool := !(sclPulled s || s.envSclLow)

/-- `SDA`, the sensed data level (R31). -/
def sdaLevel (s : State) : Bool := !(sdaPulled s || s.envSdaLow)

/-- The sensed levels of both lines. -/
def levels (s : State) : Levels where
  scl := sclLevel s
  sda := sdaLevel s

/-! ## The detector -/

/-- The step from `s0` to `s1` shows a start condition (R33). -/
def startSeen (s0 s1 : State) : Bool :=
  s0.cfg && sclLevel s0 && sclLevel s1 && sdaLevel s0 && !sdaLevel s1

/-- The step from `s0` to `s1` shows a stop condition (R34). -/
def stopSeen (s0 s1 : State) : Bool :=
  s0.cfg && sclLevel s0 && sclLevel s1 && !sdaLevel s0 && sdaLevel s1

/-- The detector, as part of the step from `s0` to `s1`; it only sets flags (R33 to R35). -/
def detect (s0 s1 : State) : State :=
  { s1 with sif := s1.sif || startSeen s0 s1, pf := s1.pf || stopSeen s0 s1 }

/-- The observation of the lines (R167): a change of the sensed levels is appended to `wire`. Log 15. -/
def recordLines (s0 s1 : State) : State :=
  if levels s0 = levels s1 then s1 else { s1 with wire := levels s1 :: s1.wire }

/-- The step of any agent from `s0` to `s1`, with the detector applied (R61). -/
def commit (s0 s1 : State) : State := recordLines s0 (detect s0 s1)

/-- One (µ) step: the writes `f`, with the detector applied to the levels before and after (R9, R61). -/
def micro (f : State → State) (s : State) : State := commit s (f s)

/-! ## Micro-operations -/

/-- `SetSclPort(v)` (R38). -/
def setSclPort (v : Bool) (s : State) : State := { s with sclPort := v }

/-- `SetSdaPort(v)` (R39). -/
def setSdaPort (v : Bool) (s : State) : State := { s with sdaPort := v }

/-- `SetSclDir(d)`, true = Out (R40). -/
def setSclDir (d : Bool) (s : State) : State := { s with sclDir := d }

/-- `SetSdaDir(d)`, true = Out (R40). -/
def setSdaDir (d : Bool) (s : State) : State := { s with sdaDir := d }

/-- `LoadSR(v)` (R41). -/
def loadSR (v : Byte) (s : State) : State := { s with sr := v }

/-- `ToggleScl()`: inverts the port, whatever it holds (R42). -/
def toggleScl (s : State) : State := { s with sclPort := !s.sclPort }

/-- `Delay(t)`: a step that changes no state (R44). -/
def delay (_t : Nat) (s : State) : State := s

/-- Whether `WaitSclHigh()` has its step, is held by the peer, or waits for the engine's own pull (R43, R137, R138). -/
inductive ClockWait where
  | ready
  | held
  | hung
  deriving DecidableEq, Repr

/-- `WaitSclHigh()` (R43): enabled while SCL = 1; otherwise hung when the engine itself pulls the clock (R138), else
held by the peer (R137). -/
def waitSclHigh (s : State) : ClockWait :=
  if sclLevel s then .ready else if sclPulled s then .hung else .held

/-! ## The transaction buffer -/

/-- The byte written at index `i` since reset, if any. -/
def bufFind : List Host.Cell → Nat → Option Byte
  | [], _ => none
  | (a, v) :: rest, i => if a = i then some v else bufFind rest i

/-- Write the byte `v` at index `i`, keeping the cells in rising order of index. -/
def bufInsert : List Host.Cell → Nat → Byte → List Host.Cell
  | [], i, v => [(i, v)]
  | (a, w) :: rest, i, v =>
    if i < a then (i, v) :: (a, w) :: rest
    else if i = a then (i, v) :: rest
    else (a, w) :: bufInsert rest i v

/-- `BUF[i]` (R7, R55). A byte not written since reset has the free value of `Config.bufAtReset` (R17, R151; log 5). -/
def bufRead (i : BitVec 8) (s : State) : Byte :=
  (bufFind s.buf i.toNat).getD (Config.bufAtReset s.epoch i.toNat)

/-- `BUF[i] <- v` (R7, R55). -/
def bufWrite (i : BitVec 8) (v : Byte) (s : State) : State :=
  { s with buf := bufInsert s.buf i.toNat v }

/-- Every index of the list lies above `lo`, and the indices rise strictly. -/
def risingFrom : Nat → List Host.Cell → Bool
  | _, [] => true
  | lo, (a, _) :: rest => decide (lo ≤ a) && risingFrom (a + 1) rest

/-- The canonical form of the transaction buffer: indices strictly rising, all below 256. An unlisted index reads as no
byte written, which no listed cell equals. -/
def Memory.wf (m : List Host.Cell) : Bool :=
  risingFrom 0 m && m.all (fun c => decide (c.1 < Config.bufLen))

/-! ## How a command begins and ends -/

/-- The first (µ) step of a command (R46). -/
def firstPos : Instr → Pos
  | .init => .init
  | .start => .start .check
  | .stop => .stop .dataLow
  | .transfer _ => .transfer .preload
  | .readByte _ => .readByte .dirIn
  | .writeByte _ => .writeByte .clockLow
  | .writeTxn _ _ _ => .start .check
  | .readTxn _ _ _ => .start .check

/-- The locals when the first (µ) step is reached: a transaction's first attempt has begun (R9, R113, R117). The other
values are never read before they are written (log 14). -/
def firstLocals (i : Instr) : Locals where
  attempt :=
    match i with
    | .writeTxn _ _ _ => 1
    | .readTxn _ _ _ => 1
    | _ => 0
  i := 0
  s := .ok
  status := .ok
  result := 0
  b := 0

/-- The latch of a command (R46): CURCMD <- w, BUSY <- 1, the sequencer at the command's first (µ) step. -/
def issue (w : Word) (i : Instr) (s : State) : State :=
  { s with busy := true, seq := some { curCmd := w, pos := firstPos i, loc := firstLocals i } }

/-- `finish(st)` (R48): CODE, and RXDATA where the command has a byte result, then BUSY <- 0 and the sequencer emptied. -/
def finish (st : Status) (rx : Option Byte) (s : State) : State :=
  { s with code := encStatus st, rxdata := rx.getD s.rxdata, busy := false, seq := none }

/-- The sequencer moves to position `p` with the locals `l` of the running command `q`. -/
def goTo (q : Sequencer) (p : Pos) (l : Locals) (s : State) : State :=
  { s with seq := some { q with pos := p, loc := l } }

/-! ## Procedures -/

/-- What one (µ) step of a procedure does: go on at a position of the procedure, return a value to the caller, or not
happen because the engine is held or hung at `WaitSclHigh`. -/
inductive ProcStep (π ρ : Type) where
  | goto (p : π) (l : Locals) (s : State)
  | ret (r : ρ) (l : Locals) (s : State)
  | held
  | hung

/-- A procedure's step seen by its caller: a position `p` of the callee is the caller's position `inj p`, and a return
goes on as `k` says, within the same step (R9: a call contributes the steps of the callee's body). -/
def callStep {π ρ π' ρ' : Type} (inj : π → π') (k : ρ → Locals → State → ProcStep π' ρ') :
    ProcStep π ρ → ProcStep π' ρ'
  | .goto p l s => .goto (inj p) l s
  | .ret r l s => k r l s
  | .held => .held
  | .hung => .hung

/-- A procedure's step as a step of the command `q` running in `s`. Held: the engine has no step and nothing changes
(R43, R137); hung: the fault `hangOwnClock` (R138). -/
def runStep {π ρ : Type} (s : State) (q : Sequencer) (inj : π → Pos)
    (k : ρ → Locals → State → Host.Outcome State Fault Refusal) :
    ProcStep π ρ → Host.Outcome State Fault Refusal
  | .goto p l t => .next (goTo q (inj p) l t)
  | .ret r l t => k r l t
  | .held => .next s
  | .hung => .fault .hangOwnClock

/-- A meaning on the running command's sequencer; an engine without one has no step to take (log 9). -/
def withSeq (s : State) (f : Sequencer → Host.Outcome State Fault Refusal) : Host.Outcome State Fault Refusal :=
  match s.seq with
  | none => .fault .badSequencer
  | some q => f q

end Sys2Proof.Machine
end

