-- ==== Sys2Proof/Machine/Operands.lean ====
section
/-! DEFINITION. The operands the commands assemble (30_encoding.md R74, R81 to R83): the address byte, the
acknowledgement pattern, the countdown's load, and the byte index of a transaction. -/

namespace Sys2Proof.Machine

open Sys2Proof

/-- The address byte `ADDR ++ rw` (R81), `rw` false = write = 0, true = read = 1 (R82). -/
def addressByte (addr : BitVec 7) (rw : Bool) : Byte := addr ++ BitVec.ofBool rw

/-- The acknowledgement pattern READ_BYTE loads: 0x00 (ACK) when another byte is expected, else 0xFF (NACK) (R83). -/
def ackPattern (more : Bool) : Byte := if more then 0x00 else 0xFF

/-- The status of WriteByte from its 1-bit Transfer's result: bit 0 set is NACK (R83, R107). -/
def ackStatus (a : Byte) : Status := if a.getLsbD 0 then .slaveNack else .ok

/-- Another byte follows byte `i` of `count`: `i < count - 1` (R113, R117). -/
def moreBytes (i count : BitVec 8) : Bool := decide (i.toNat + 1 < count.toNat)

/-- SR shifted left with the sampled bit entering at SR[0]: `SR[6:0] ++ LATCH` (R96). -/
def shiftIn (sr : Byte) (bit : Bool) : Byte := sr.extractLsb' 0 7 ++ BitVec.ofBool bit

end Sys2Proof.Machine
end

