-- ==== Sys2Proof/Machine/Flags.lean ====
section
/-! DEFINITION. The status-flag computations: the collision signal (10_state.md R32), START's and STOP's checks
(40_signal_layer.md R91, R93), the flag writes of INIT, TRANSFER and STOP (R37), and the host's views of status, flags
and lines (R47, R49 to R51). -/

namespace Sys2Proof.Machine

open Sys2Proof

/-- `DC`, combinational (R32). -/
def collision (s : State) : Bool := s.cfg && s.sdaDir && s.sdaPort && s.sr.getLsbD 7 && !sdaLevel s

/-- START's pending check: SIF before PF before DC, none of them when CHECK_PENDING is false (R91, R140). -/
def pendingCheck (s : State) : Status :=
  if s.sif && s.params.checkPending then .unknownStart
  else if s.pf && s.params.checkPending then .unknownStop
  else if collision s && s.params.checkPending then .dataCollision
  else .ok

/-- START's verification: MissingStartCondition when VERIFY_START and SIF = 0 (R91). -/
def verifyStartStatus (s : State) : Status :=
  if !s.sif && s.params.verifyStart then .missingStartCondition else .ok

/-- STOP's verification: MissingStopCondition when VERIFY_STOP and PF = 0 (R93). -/
def verifyStopStatus (s : State) : Status :=
  if !s.pf && s.params.verifyStop then .missingStopCondition else .ok

/-- Transfer's preload of the countdown, "via the same status-flag register": SIF, PF, OIF <- 0, CNT <- n (R96). -/
def preloadFlags (n : BitVec 4) (s : State) : State :=
  { s with sif := false, pf := false, oif := false, cnt := n }

/-- INIT's flag writes: SIF, PF, OIF <- 0, CNT <- 0, CFG <- 1 (R89). -/
def initFlags (s : State) : State :=
  { s with sif := false, pf := false, oif := false, cnt := 0, cfg := true }

/-- STOP's last step: PF <- 0 (R93). -/
def clearStopFlag (s : State) : State := { s with pf := false }

/-- Transfer's shift step on the data path and the countdown: shift in LATCH, CNT <- CNT - 1, OIF <- 1 when CNT reaches
0 (R96, R23, R24). -/
def shiftAndCount (s : State) : State :=
  { s with sr := shiftIn s.sr s.latch, cnt := s.cnt - 1, oif := s.oif || decide (s.cnt - 1 = 0) }

/-- STATUS: [7:0] CODE, [8] BUSY (R47). -/
def statusWord (s : State) : Word := 0#23 ++ BitVec.ofBool s.busy ++ s.code

/-- RXDATA: [7:0] RXDATA (R49). -/
def rxdataWord (s : State) : Word := 0#24 ++ s.rxdata

/-- FLAGS: [0] SIF, [1] PF, [2] DC, [3] OIF, [7:4] CNT, [8] CFG (R50). -/
def flagsWord (s : State) : Word :=
  0#23 ++ BitVec.ofBool s.cfg ++ s.cnt ++ BitVec.ofBool s.oif ++ BitVec.ofBool (collision s) ++
    BitVec.ofBool s.pf ++ BitVec.ofBool s.sif

/-- LINES: [0] SCL, [1] SDA, [2] SCL_DIR, [3] SCL_PORT, [4] SDA_DIR, [5] SDA_PORT, [15:8] SR (R51). -/
def linesWord (s : State) : Word :=
  0#16 ++ s.sr ++ 0#2 ++ BitVec.ofBool s.sdaPort ++ BitVec.ofBool s.sdaDir ++ BitVec.ofBool s.sclPort ++
    BitVec.ofBool s.sclDir ++ BitVec.ofBool (sdaLevel s) ++ BitVec.ofBool (sclLevel s)

end Sys2Proof.Machine
end

