-- ==== Sys2Proof/Machine/Signal.lean ====
section
/-! DEFINITION. The Signal Layer (40_signal_layer.md): the procedures Start(), Stop() and Transfer(n), one function of
the position each, and the meanings of INIT, START, STOP and TRANSFER. A meaning is ONE (µ) step of its command, the one
the sequencer's position names (00_scope.md R9, 20_memory.md R61; log 1). -/

namespace Sys2Proof.Machine

open Sys2Proof

/-! ## Procedures -/

/-- One (µ) step of `Start()` (R91). It never waits for the clock (R92 (c)). -/
def startStep (p : StartPos) (l : Locals) (s : State) : ProcStep StartPos Status :=
  match p with
  | .check =>
    if pendingCheck s = .ok then .goto .dataHigh { l with s := .ok } (micro id s)
    else .ret (pendingCheck s) { l with s := pendingCheck s } (micro id s)
  | .dataHigh => .goto .clockHigh l (micro (setSdaPort true) s)
  | .clockHigh => .goto .setup l (micro (setSclPort true) s)
  | .setup => .goto .dataLow l (micro (delay Config.tSetup) s)
  | .dataLow => .goto .hold l (micro (setSdaPort false) s)
  | .hold => .goto .clockLow l (micro (delay Config.tHold) s)
  | .clockLow => .goto .dataRelease l (micro (setSclPort false) s)
  | .dataRelease => .goto .verify l (micro (setSdaPort true) s)
  | .verify => .ret (verifyStartStatus s) { l with s := verifyStartStatus s } (micro id s)

/-- One (µ) step of `Stop()` (R93). Its last step's own write of PF is applied after the detector's (R35 (d)). -/
def stopStep (p : StopPos) (l : Locals) (s : State) : ProcStep StopPos Status :=
  match p with
  | .dataLow => .goto .clockRelease l (micro (setSdaPort false) s)
  | .clockRelease => .goto .waitHigh l (micro (setSclPort true) s)
  | .waitHigh =>
    match waitSclHigh s with
    | .ready => .goto .hold l (micro id s)
    | .held => .held
    | .hung => .hung
  | .hold => .goto .dataRelease l (micro (delay Config.tHold) s)
  | .dataRelease => .goto .setup l (micro (setSdaPort true) s)
  | .setup => .goto .verify l (micro (delay Config.tSetup) s)
  | .verify => .ret (verifyStopStatus s) { l with s := verifyStopStatus s } (clearStopFlag (micro id s))

/-- One (µ) step of `Transfer(n)` (R96). The preload's own flag writes are applied after the detector's (R35 (d)); the
sample is taken at the `WaitSclHigh` step; the loop ends at the shift step that leaves OIF = 1. -/
def xferStep (n : BitVec 4) (p : XferPos) (l : Locals) (s : State) : ProcStep XferPos Byte :=
  match p with
  | .preload => .goto .setup l (preloadFlags n (micro id s))
  | .setup => .goto .toggle l (micro (delay Config.tSetup) s)
  | .toggle => .goto .sample l (micro toggleScl s)
  | .sample =>
    match waitSclHigh s with
    | .ready => .goto .hold l (micro (fun t => { t with latch := sdaLevel t }) s)
    | .held => .held
    | .hung => .hung
  | .hold => .goto .toggleBack l (micro (delay Config.tHold) s)
  | .toggleBack => .goto .shift l (micro toggleScl s)
  | .shift => .goto (if (shiftAndCount s).oif then .capture else .setup) l (micro shiftAndCount s)
  | .capture => .goto .dirOut { l with result := s.sr } (micro (loadSR 0xFF) s)
  | .dirOut => .ret l.result l (micro (setSdaDir true) s)

/-! ## Commands -/

/-- INIT's state changes but for the flags (R89): SR <- 0xFF, both ports release, both directions out. -/
def initLines (s : State) : State :=
  { s with sr := 0xFF, sclPort := true, sdaPort := true, sclDir := true, sdaDir := true }

/-- INIT (R89, R90): one atomic step, whose flag clears win over the detector (R35 (d)), then `finish(Ok)`. -/
def execInit (s : State) : Host.Outcome State Fault Refusal :=
  withSeq s fun q =>
    match q.pos with
    | .init => .next (goTo q .finish q.loc (initFlags (micro initLines s)))
    | .finish => .next (finish .ok none s)
    | _ => .fault .badSequencer

/-- START (R91, R92): `s <- Start()`, then `finish(s)`. -/
def execStart (s : State) : Host.Outcome State Fault Refusal :=
  withSeq s fun q =>
    match q.pos with
    | .start p => runStep s q .start (fun _ l t => .next (goTo q .finish l t)) (startStep p q.loc s)
    | .finish => .next (finish q.loc.s none s)
    | _ => .fault .badSequencer

/-- STOP (R93, R94): `s <- Stop()`, then `finish(s)`. -/
def execStop (s : State) : Host.Outcome State Fault Refusal :=
  withSeq s fun q =>
    match q.pos with
    | .stop p => runStep s q .stop (fun _ l t => .next (goTo q .finish l t)) (stopStep p q.loc s)
    | .finish => .next (finish q.loc.s none s)
    | _ => .fault .badSequencer

/-- TRANSFER (R96 to R99): `result <- Transfer(N)`, then `finish(Ok) with RXDATA <- result`. A reserved N (R76, R84) has
no meaning; the decoder never gives one. -/
def execTransfer (n : BitVec 4) (s : State) : Host.Outcome State Fault Refusal :=
  if wellFormed (.transfer n) then
    withSeq s fun q =>
      match q.pos with
      | .transfer p =>
        runStep s q .transfer (fun r l t => .next (goTo q .finish { l with result := r } t)) (xferStep n p q.loc s)
      | .finish => .next (finish .ok (some q.loc.result) s)
      | _ => .fault .badSequencer
  else .refused .reservedCommand

end Sys2Proof.Machine
end

