-- ==== Sys2Proof/Machine/ByteLayer.lean ====
section
/-! DEFINITION. The Byte Layer (41_byte_layer.md): the procedures ReadByte(more) and WriteByte(v), each two Transfers
with the direction switches between them, and the meanings of READ_BYTE and WRITE_BYTE. -/

namespace Sys2Proof.Machine

open Sys2Proof

/-- One (µ) step of `ReadByte(more)` (R103): `b <- Transfer(8)`, the acknowledgement pattern, `a <- Transfer(1)` with `a`
discarded; it returns `b`. -/
def readByteStep (more : Bool) (p : ReadPos) (l : Locals) (s : State) : ProcStep ReadPos Byte :=
  match p with
  | .dirIn => .goto (.data .preload) l (micro (setSdaDir false) s)
  | .data x => callStep .data (fun r l' t => .goto .dirOut { l' with b := r } t) (xferStep 8 x l s)
  | .dirOut => .goto .loadAck l (micro (setSdaDir true) s)
  | .loadAck => .goto (.ack .preload) l (micro (loadSR (ackPattern more)) s)
  | .ack x => callStep .ack (fun _ l' t => .ret l'.b l' t) (xferStep 1 x l s)

/-- One (µ) step of `WriteByte(v)` (R107): clock low, `LoadSR(v)` (the only step that reads `v`, R108), `d <- Transfer(8)`
with `d` discarded, data line to input, `a <- Transfer(1)`; SlaveNack when bit 0 of `a` is set. -/
def writeByteStep (v : Byte) (p : WritePos) (l : Locals) (s : State) : ProcStep WritePos Status :=
  match p with
  | .clockLow => .goto .load l (micro (setSclPort false) s)
  | .load => .goto (.data .preload) l (micro (loadSR v) s)
  | .data x => callStep .data (fun _ l' t => .goto .dirIn l' t) (xferStep 8 x l s)
  | .dirIn => .goto (.ack .preload) l (micro (setSdaDir false) s)
  | .ack x => callStep .ack (fun a l' t => .ret (ackStatus a) { l' with s := ackStatus a } t) (xferStep 1 x l s)

/-- READ_BYTE (R103 to R106): `b <- ReadByte(MORE)`, then `finish(Ok) with RXDATA <- b`. -/
def execReadByte (more : Bool) (s : State) : Host.Outcome State Fault Refusal :=
  withSeq s fun q =>
    match q.pos with
    | .readByte p =>
      runStep s q .readByte (fun b l t => .next (goTo q .finish { l with b := b } t)) (readByteStep more p q.loc s)
    | .finish => .next (finish .ok (some q.loc.b) s)
    | _ => .fault .badSequencer

/-- WRITE_BYTE (R107 to R109): `s <- WriteByte(VALUE)`, then `finish(s)`. -/
def execWriteByte (value : Byte) (s : State) : Host.Outcome State Fault Refusal :=
  withSeq s fun q =>
    match q.pos with
    | .writeByte p =>
      runStep s q .writeByte (fun _ l t => .next (goTo q .finish l t)) (writeByteStep value p q.loc s)
    | .finish => .next (finish q.loc.s none s)
    | _ => .fault .badSequencer

end Sys2Proof.Machine
end

