-- ==== Sys2Proof/Machine/Transaction.lean ====
section
/-! DEFINITION. The Transaction Layer (42_transaction_layer.md): the retry loop, the address byte and the trailing stop,
which WRITE_TXN and READ_TXN share (R117: "same retry/start/address-byte structure"), and the meanings of the two. -/

namespace Sys2Proof.Machine

open Sys2Proof

/-- The loop of a transaction has ended with `st`: the trailing Stop() when STOP = 1, whatever `st` is (R114), else the
command's `finish`. -/
def txnLeave (q : Sequencer) (stop : Bool) (st : Status) (l : Locals) (s : State) : State :=
  goTo q (if stop then .stop .dataLow else .finish) { l with status := st } s

/-- What follows a transaction's Start() (R112, R113): after a transient status the next attempt, up to RETRY_MAX; after
any other failure the end of the loop; after Ok the address byte. -/
def txnAfterStart (q : Sequencer) (stop : Bool) (st : Status) (l : Locals) (s : State) : State :=
  if isTransient st then
    if l.attempt < Config.retryMax then
      goTo q (.start .check) { l with status := st, attempt := l.attempt + 1 } s
    else txnLeave q stop st l s
  else if st = .ok then goTo q (.addrByte .clockLow) l s
  else txnLeave q stop st l s

/-- One (µ) step of a transaction's Start(). -/
def txnStart (q : Sequencer) (stop : Bool) (p : StartPos) (s : State) : Host.Outcome State Fault Refusal :=
  runStep s q .start (fun st l t => .next (txnAfterStart q stop st l t)) (startStep p q.loc s)

/-- One (µ) step of a transaction's address byte with the direction `rw`; after Ok the sequencer goes on with the payload
at byte 0, at position `first`, unless there is none (R113, R117). -/
def txnAddress (q : Sequencer) (addr : BitVec 7) (rw stop : Bool) (count : BitVec 8) (first : Pos) (p : WritePos)
    (s : State) : Host.Outcome State Fault Refusal :=
  runStep s q .addrByte
    (fun st l t =>
      .next
        (if st = .ok then
          if count = 0 then txnLeave q stop .ok { l with i := 0 } t else goTo q first { l with i := 0 } t
        else txnLeave q stop st l t))
    (writeByteStep (addressByte addr rw) p q.loc s)

/-- A payload byte is done: the next one, at position `first`, or the end of the loop with Ok (R113, R117). -/
def txnNextByte (q : Sequencer) (stop : Bool) (count : BitVec 8) (first : Pos) (l : Locals) (s : State) : State :=
  if moreBytes l.i count then goTo q first { l with i := l.i + 1 } s else txnLeave q stop .ok l s

/-- One (µ) step of a transaction's trailing Stop(), whose status is the command's (R114). -/
def txnStop (q : Sequencer) (p : StopPos) (s : State) : Host.Outcome State Fault Refusal :=
  runStep s q .stop (fun st l t => .next (goTo q .finish { l with status := st } t)) (stopStep p q.loc s)

/-- WRITE_TXN (R113 to R116). Payload byte `i` is BUF[i], read at its `LoadSR` step (R70, R108). -/
def execWriteTxn (addr : BitVec 7) (stop : Bool) (count : BitVec 8) (s : State) : Host.Outcome State Fault Refusal :=
  withSeq s fun q =>
    match q.pos with
    | .start p => txnStart q stop p s
    | .addrByte p => txnAddress q addr false stop count (.writeByte .clockLow) p s
    | .writeByte p =>
      runStep s q .writeByte
        (fun st l t =>
          .next (if st = .ok then txnNextByte q stop count (.writeByte .clockLow) l t else txnLeave q stop st l t))
        (writeByteStep (bufRead q.loc.i s) p q.loc s)
    | .stop p => txnStop q p s
    | .finish => .next (finish q.loc.status none s)
    | _ => .fault .badSequencer

/-- READ_TXN (R117 to R120). "More" is asked for with every byte but the last (R118); BUF[i] <- b is a step of its own
(R119). COUNT = 0 is reserved (R79, R84); the decoder never gives it. -/
def execReadTxn (addr : BitVec 7) (stop : Bool) (count : BitVec 8) (s : State) : Host.Outcome State Fault Refusal :=
  if wellFormed (.readTxn addr stop count) then
    withSeq s fun q =>
      match q.pos with
      | .start p => txnStart q stop p s
      | .addrByte p => txnAddress q addr true stop count (.readByte .dirIn) p s
      | .readByte p =>
        runStep s q .readByte (fun b l t => .next (goTo q .store { l with b := b } t))
          (readByteStep (moreBytes q.loc.i count) p q.loc s)
      | .store =>
        .next (txnNextByte q stop count (.readByte .dirIn) q.loc (micro (bufWrite q.loc.i q.loc.b) s))
      | .stop p => txnStop q p s
      | .finish => .next (finish q.loc.status none s)
      | _ => .fault .badSequencer
  else .refused .reservedCommand

end Sys2Proof.Machine
end

