-- ==== Sys2Proof/Machine/Dispatch.lean ====
section
/-! DEFINITION. The meaning of each command (40, 41, 42): one arm per constructor, one direct call each. -/

namespace Sys2Proof.Machine

open Sys2Proof

def exec (i : Instr) (s : State) : Host.Outcome State Fault Refusal :=
  match i with
  | .init => Sys2Proof.Machine.execInit s
  | .start => Sys2Proof.Machine.execStart s
  | .stop => Sys2Proof.Machine.execStop s
  | .transfer n => Sys2Proof.Machine.execTransfer n s
  | .readByte more => Sys2Proof.Machine.execReadByte more s
  | .writeByte value => Sys2Proof.Machine.execWriteByte value s
  | .writeTxn addr stop count => Sys2Proof.Machine.execWriteTxn addr stop count s
  | .readTxn addr stop count => Sys2Proof.Machine.execReadTxn addr stop count s

end Sys2Proof.Machine
end

