-- ==== Sys2Proof/Machine/HostBus.lean ====
section
/-! DEFINITION. The host's accesses to the register space (10_state.md R45 to R52, 20_memory.md R53 to R59), with the
refusals of 60_exceptions.md R142. What a read returns is put in `hostData` (log 10). -/

namespace Sys2Proof.Machine

open Sys2Proof

/-- The registers of the register space (R45). -/
inductive HostReg where
  | cmd
  | status
  | rxdata
  | flags
  | lines
  | buf (i : BitVec 8)
  deriving DecidableEq, Repr

/-- The register at a byte offset (R45, R52, R59): a width other than 4 or a misaligned offset is BadAccess (R57), any
other offset that is not in the table ReservedOffset. BadAccess is reported first (log 11). -/
def hostReg (off width : Nat) : Except Refusal HostReg :=
  if width ≠ 4 ∨ off % 4 ≠ 0 then .error .badAccess
  else if off = 0x000 then .ok .cmd
  else if off = 0x004 then .ok .status
  else if off = 0x008 then .ok .rxdata
  else if off = 0x00C then .ok .flags
  else if off = 0x010 then .ok .lines
  else if 0x400 ≤ off ∧ off < Config.regSpaceBytes then .ok (.buf (BitVec.ofNat 8 ((off - 0x400) / 4)))
  else .error .reservedOffset

/-- A read puts its value in `hostData` and changes nothing else (R58). -/
def hostRead (r : HostReg) (s : State) : State :=
  match r with
  | .cmd => { s with hostData := 0 }
  | .status => { s with hostData := statusWord s }
  | .rxdata => { s with hostData := rxdataWord s }
  | .flags => { s with hostData := flagsWord s }
  | .lines => { s with hostData := linesWord s }
  | .buf i =>
    if s.busy then { s with hostData := Config.busyRead s.draws, draws := s.draws + 1 }
    else { s with hostData := (bufRead i s).setWidth 32 }

/-- A CMD write (R46): refused while BUSY = 1 (R157), for a reserved word (R84), and while CFG = 0 for any command but
INIT (R20); otherwise the command is latched. Log 11 for the order of the refusals. -/
def cmdWrite (w : Word) (s : State) : Host.Outcome State Fault Refusal :=
  if s.busy then .refused .commandWhileBusy
  else
    match decode w with
    | .error _ => .refused .reservedCommand
    | .ok i => if !s.cfg && decide (i ≠ .init) then .refused .notInitialised else .next (issue w i s)

/-- A write: CMD issues a command, BUF takes bits [7:0] unless BUSY = 1 (R52, R158), every other register ignores it
(R45, R58). -/
def hostWrite (r : HostReg) (w : Word) (s : State) : Host.Outcome State Fault Refusal :=
  match r with
  | .cmd => cmdWrite w s
  | .buf i =>
    if s.busy then .refused .bufferWriteWhileBusy else .next (micro (bufWrite i (w.extractLsb' 0 8)) s)
  | .status => .next s
  | .rxdata => .next s
  | .flags => .next s
  | .lines => .next s

/-- One host step: one register access (R58, R62). -/
def hostAccess (a : Access) (s : State) : Host.Outcome State Fault Refusal :=
  match a with
  | .read off width =>
    match hostReg off width with
    | .ok r => .next (hostRead r s)
    | .error e => .refused e
  | .write off width w =>
    match hostReg off width with
    | .ok r => hostWrite r w s
    | .error e => .refused e

/-- The platform address of a register (R53): `ENGINE_BASE` plus its byte offset. -/
def platformAddress (off : Nat) : Nat := Config.engineBase + off

/-- The byte offset an access at a platform address has, when the address lies in the engine's register space (R53). -/
def registerOffset (addr : Nat) : Option Nat :=
  if Config.engineBase ≤ addr ∧ addr < Config.engineBase + Config.regSpaceBytes then some (addr - Config.engineBase)
  else none

end Sys2Proof.Machine
end

