-- ==== Sys2Proof/Machine/Engine.lean ====
section
/-! DEFINITION. One step of the whole system (20_memory.md R60 to R64): the agenda says which agent steps; the engine
fetches by decoding its latched command word (R16, R46) and runs one (µ) step of it. -/

namespace Sys2Proof.Machine

open Sys2Proof

/-- An environment step: one of the two line inputs is set or cleared (R63), with the detector (R61). -/
def envStep (line : Line) (low : Bool) (s : State) : State :=
  match line with
  | .scl => micro (fun t => { t with envSclLow := low }) s
  | .sda => micro (fun t => { t with envSdaLow := low }) s

/-- Reset (R151): every field of the engine at its reset value, at once, whatever the engine was doing; the environment,
the parameters, the agenda and the model's observations stay, and BUF is unspecified afresh. Log 21. -/
def resetStep (s : State) : State :=
  recordLines s
    { State.reset with
      envSclLow := s.envSclLow
      envSdaLow := s.envSdaLow
      params := s.params
      hostData := s.hostData
      draws := s.draws
      epoch := s.epoch + 1
      agenda := s.agenda
      wire := s.wire }

/-- The engine's turn (R61): with BUSY = 0 it has no step and nothing changes; with BUSY = 1 it runs the next (µ) step of
the command its latched word decodes to. -/
def engineTurn (s : State) : Host.Outcome State Fault Refusal :=
  if s.busy then
    match s.seq with
    | none => .fault .badSequencer
    | some q =>
      match decode q.curCmd with
      | .error _ => .refused .reservedCommand
      | .ok i => exec i s
  else .next s

/-- The step of the agent an event names. -/
def runEvent (e : Event) (s : State) : Host.Outcome State Fault Refusal :=
  match e with
  | .engine => engineTurn s
  | .env line low => .next (envStep line low s)
  | .host a => hostAccess a s
  | .reset => .next (resetStep s)

/-- One step of the system: the agenda's first event; with an empty agenda it is the engine's turn, always (the fairness
toward the engine of 70 R163; log 2). -/
def nextStep (s : State) : Host.Outcome State Fault Refusal :=
  match s.agenda with
  | [] => engineTurn s
  | e :: rest => runEvent e { s with agenda := rest }

/-- The state `s` with the command word `w` latched, the engine's turn next: what a CMD write of `w` that is accepted
leaves (R46). Log 17. -/
def placeCommand (s : State) (nbits w : Nat) : State :=
  let word : Word := BitVec.ofNat 32 (w % 2 ^ nbits)
  match decode word with
  | .ok i => { issue word i s with agenda := .engine :: s.agenda }
  | .error _ =>
    { s with
      busy := true
      seq := some { curCmd := word, pos := .finish, loc := firstLocals .init }
      agenda := .engine :: s.agenda }

end Sys2Proof.Machine
end

