-- ==== Sys2Proof/Machine/Step.lean ====
section
/-! DEFINITION. The step of the machine, and the placing of one instruction where the step fetches it. Both only call
Machine/Engine.lean. -/

namespace Sys2Proof.Machine

/-- One step of one agent (20_memory.md R61). -/
def step (s : State) : Host.Outcome State Fault Refusal := nextStep s

/-- `s` with the instruction whose table bits are `w` latched as the running command, the engine to step next (R46). -/
def State.withFetchWord (s : State) (nbits w : Nat) : State := placeCommand s nbits w

end Sys2Proof.Machine
end

