-- ==== Sys2Proof/Machine/Observe.lean ====
section
/-! DEFINITION. The end of a run and what is observed of it (70_reset_and_hazards.md R167): CODE, RXDATA, BUF, FLAGS,
LINES and "the sequence of bytes and conditions on the lines", which is read off the recorded levels. Log 15. -/

namespace Sys2Proof.Machine

open Sys2Proof

/-- What appears on the two lines: a start condition, a stop condition, or a byte with the level of its acknowledgement
clock (true = high = NACK, R83). -/
inductive BusEvent where
  | start
  | stop
  | byte (value : Byte) (nack : Bool)
  deriving DecidableEq, Repr

/-- The byte of eight bits, the first in bit 7 (20_memory.md R56). -/
def byteOfBits (bits : List Bool) : Byte := bits.foldl (fun v b => v.extractLsb' 0 7 ++ BitVec.ofBool b) 0

/-- What a listener on the lines has collected: the last levels, the bits since the last condition or byte, the level
taken at the last clock rise, and the events, newest first. -/
structure Listener where
  last : Levels
  bits : List Bool
  taken : Option Bool
  events : List BusEvent
  deriving DecidableEq, Repr

/-- A bit is the data level at a clock rise, once the clock falls with no condition in between; nine bits are a byte and
its acknowledgement (R97, R103, R107); a data change while the clock stays high is a condition (R33, R34). -/
def Listener.hear (m : Listener) (v : Levels) : Listener :=
  if m.last.scl && v.scl then
    if m.last.sda && !v.sda then { last := v, bits := [], taken := none, events := .start :: m.events }
    else if !m.last.sda && v.sda then { last := v, bits := [], taken := none, events := .stop :: m.events }
    else { m with last := v }
  else if v.scl then { m with last := v, taken := some v.sda }
  else
    match m.last.scl, m.taken with
    | true, some b =>
      if m.bits.length = 8 then
        { last := v, bits := [], taken := none, events := .byte (byteOfBits m.bits) b :: m.events }
      else { m with last := v, bits := m.bits ++ [b], taken := none }
    | _, _ => { m with last := v, taken := none }

/-- The bytes and conditions of a history of levels, oldest first in both. -/
def busEvents (history : List Levels) : List BusEvent :=
  (history.foldl Listener.hear
    { last := { scl := true, sda := true }, bits := [], taken := none, events := [] }).events.reverse

/-- BUF, all its 256 bytes in order of index (R55), as `bufRead` gives each: a byte not written since reset too, with its
free value of the epoch (log 5). -/
def bufContents (s : State) : Vector Byte Config.bufLen := Vector.ofFn fun i => bufRead (BitVec.ofNat 8 i.val) s

/-- What is observed of a state at the end of a run (R167). -/
structure Observation where
  code : Byte
  rxdata : Byte
  buf : Vector Byte Config.bufLen
  flags : Word
  lines : Word
  bus : List BusEvent
  deriving DecidableEq, Repr

/-- The observation of a state (R167). -/
def observe (s : State) : Observation where
  code := s.code
  rxdata := s.rxdata
  buf := bufContents s
  flags := flagsWord s
  lines := linesWord s
  bus := busEvents s.wire.reverse

/-- The agenda holds no host step any more: "the host program has made its last host step" (R167). -/
def hostDone (s : State) : Bool :=
  s.agenda.all fun e =>
    match e with
    | .host _ => false
    | _ => true

/-- A state in which a run can end (R167): the host is done and no command is in flight; a state with BUSY = 1, held or
not, is never one. A refusal or an own-clock hang is no state of the run but the outcome that cuts it off. -/
def runEnded (s : State) : Bool := hostDone s && !s.busy && decide (s.seq = none)

/-- The run from `s` ends after `k` steps, at `t` (R167): `t` is the FIRST state of the run in which it can end. -/
def RunEndsAt (s : State) (k : Nat) (t : State) : Prop :=
  Sys2Proof.core.run k s = .next t ∧ runEnded t = true ∧
    ∀ j, j < k → ∀ u, Sys2Proof.core.run j s = .next u → runEnded u = false

/-- How a run comes out (R167). -/
inductive RunEnd where
  /-- It ended, at its final state. -/
  | final (s : State)
  /-- No final state within the bound: a command is still under way, or stuck at a hold. -/
  | unfinished (s : State)
  /-- A fault cut it off (R138). -/
  | fault (f : Fault)
  /-- A refusal cut it off (R141). -/
  | refused (r : Refusal)
  deriving DecidableEq, Repr

/-- The run from `s` up to the first state in which it can end, for at most `bound` steps (R167; log 22). -/
def runToEnd (bound : Nat) (s : State) : RunEnd :=
  if runEnded s then .final s
  else
    match bound with
    | 0 => .unfinished s
    | k + 1 =>
      match step s with
      | .next t => runToEnd k t
      | .fault f => .fault f
      | .refused r => .refused r

/-- The observation of a run that ends within `bound` steps (R167); of any other run nothing is observed. -/
def observeRun (bound : Nat) (s : State) : Option Observation :=
  match runToEnd bound s with
  | .final t => some (observe t)
  | .unfinished _ => none
  | .fault _ => none
  | .refused _ => none

end Sys2Proof.Machine
end

