-- ==== Sys2Proof/Machine/RegisterLayer.lean ====
section
/-! DEFINITION. The host's pseudo-instructions (30_encoding.md R88) and the register-layer host sequences
(43_register_layer.md R123 to R131). They are host software over two commands of the engine, not commands: they run the
host's accesses themselves and let the system step while they wait. The agenda holds what the peer does meanwhile. -/

namespace Sys2Proof.Machine

open Sys2Proof

/-- How a host sequence ends. -/
inductive HostRun (α : Type) where
  /-- The sequence returned. -/
  | done (a : α) (s : State)
  /-- The bound of a WAIT was reached with BUSY = 1: the command is held, or the bound was too small. -/
  | waiting (s : State)
  | fault (f : Fault)
  | refused (r : Refusal)

/-- One host sequence after another. -/
def HostRun.andThen {α β : Type} (x : HostRun α) (k : α → State → HostRun β) : HostRun β :=
  match x with
  | .done a s => k a s
  | .waiting s => .waiting s
  | .fault f => .fault f
  | .refused r => .refused r

/-- One register access of the host, returning what a read returned (R88). -/
def hostDo (a : Access) (s : State) : HostRun Word :=
  match hostAccess a s with
  | .next t => .done t.hostData t
  | .fault f => .fault f
  | .refused r => .refused r

/-- `WAIT` (R88): read STATUS until bit 8 is 0, the system stepping between the reads; at most `bound` steps. -/
def hostWait : Nat → State → HostRun Unit
  | bound, s =>
    (hostDo (.read 0x004 4) s).andThen fun v t =>
      if v.getLsbD 8 then
        match bound with
        | 0 => .waiting t
        | k + 1 =>
          match step t with
          | .next u => hostWait k u
          | .fault f => .fault f
          | .refused r => .refused r
      else .done () t

/-- `ISSUE c` (R88): the CMD write, then WAIT. -/
def hostIssue (bound : Nat) (c : Instr) (s : State) : HostRun Unit :=
  (hostDo (.write 0x000 4 (encode c)) s).andThen fun _ t => hostWait bound t

/-- `GETCODE` (R88). -/
def hostGetCode (s : State) : HostRun Byte :=
  (hostDo (.read 0x004 4) s).andThen fun v t => .done (v.extractLsb' 0 8) t

/-- `GETRX` (R88). -/
def hostGetRx (s : State) : HostRun Byte :=
  (hostDo (.read 0x008 4) s).andThen fun v t => .done (v.extractLsb' 0 8) t

/-- `BUFW i, v` (R88). -/
def hostBufW (i : BitVec 8) (v : Byte) (s : State) : HostRun Unit :=
  (hostDo (.write (0x400 + 4 * i.toNat) 4 (v.setWidth 32)) s).andThen fun _ t => .done () t

/-- `BUFR i` (R88). -/
def hostBufR (i : BitVec 8) (s : State) : HostRun Byte :=
  (hostDo (.read (0x400 + 4 * i.toNat) 4) s).andThen fun v t => .done (v.extractLsb' 0 8) t

/-- `readRegister(addr, reg)` (R124): the byte and the status code. On a first-phase failure the second phase is skipped
and the byte carries no meaning (it is BUF[0]). -/
def readRegister (bound : Nat) (addr : BitVec 7) (reg : Byte) (s : State) : HostRun (Byte × Byte) :=
  (hostBufW 0 reg s).andThen fun _ s1 =>
  (hostIssue bound (.writeTxn addr false 1) s1).andThen fun _ s2 =>
  (hostGetCode s2).andThen fun c1 s3 =>
    if c1 ≠ 0 then (hostBufR 0 s3).andThen fun b s4 => .done (b, c1) s4
    else
      (hostIssue bound (.readTxn addr true 1) s3).andThen fun _ s4 =>
      (hostGetCode s4).andThen fun c2 s5 =>
      (hostBufR 0 s5).andThen fun b s6 => .done (b, c2) s6

/-- The shared form of setBits, clearBits and maskedSet (R126, R130): no write after a failed read. -/
def modifyRegister (bound : Nat) (addr : BitVec 7) (reg : Byte) (f : Byte → Byte) (s : State) : HostRun Byte :=
  (readRegister bound addr reg s).andThen fun r s1 =>
    if r.2 ≠ 0 then .done r.2 s1
    else
      (hostBufW 0 reg s1).andThen fun _ s2 =>
      (hostBufW 1 (f r.1) s2).andThen fun _ s3 =>
      (hostIssue bound (.writeTxn addr true 2) s3).andThen fun _ s4 => hostGetCode s4

/-- The new value of setBits: `v | mask` (R126). -/
def setBitsValue (mask v : Byte) : Byte := v ||| mask

/-- The new value of clearBits: `v & ~mask` (R127). -/
def clearBitsValue (mask v : Byte) : Byte := v &&& ~~~mask

/-- The new value of maskedSet: `(v & ~mask) | bits` (R128). -/
def maskedSetValue (mask bits v : Byte) : Byte := (v &&& ~~~mask) ||| bits

/-- `setBits(addr, reg, mask)` (R126). -/
def setBits (bound : Nat) (addr : BitVec 7) (reg mask : Byte) (s : State) : HostRun Byte :=
  modifyRegister bound addr reg (setBitsValue mask) s

/-- `clearBits(addr, reg, mask)` (R127). -/
def clearBits (bound : Nat) (addr : BitVec 7) (reg mask : Byte) (s : State) : HostRun Byte :=
  modifyRegister bound addr reg (clearBitsValue mask) s

/-- `maskedSet(addr, reg, mask, bits)` (R128). -/
def maskedSet (bound : Nat) (addr : BitVec 7) (reg mask bits : Byte) (s : State) : HostRun Byte :=
  modifyRegister bound addr reg (maskedSetValue mask bits) s

end Sys2Proof.Machine
end

