-- ==== Sys2Proof/Safety.lean ====
section
/-! DEFINITION. The terms claims are stated in: a command just issued, the lines at command boundaries (40 R95), runs of
one command alone or beside a peer, the invariant every step keeps, the steps a command has left (70 R163, R166), and the
observers' facts of single steps. -/

namespace Sys2Proof.Machine

open Sys2Proof

/-! ## Situations -/

/-- The command `i` has just been issued: BUSY = 1 and the sequencer at its first (µ) step (R46), with the locals of log
14. -/
def JustIssued (i : Instr) (s : State) : Prop :=
  s.busy = true ∧ ∃ w, s.seq = some { curCmd := w, pos := firstPos i, loc := firstLocals i }

/-- The running command's position is `p`. -/
def AtPos (p : Pos) (s : State) : Prop := ∃ q, s.seq = some q ∧ q.pos = p

/-- No other device pulls a line (R28). -/
def PeerQuiet (s : State) : Prop := s.envSclLow = false ∧ s.envSdaLow = false

/-- Both directions out and SR = 0xFF. -/
def lineOk (s : State) : Bool := s.sclDir && s.sdaDir && decide (s.sr = 0xFF)

/-- The engine's drivers at a command boundary after INIT (R95): SCL_DIR = 1, SDA_DIR = 1, SDA_PORT = 1, SR = 0xFF. -/
def boundaryOk (s : State) : Bool := lineOk s && s.sdaPort

/-- A configured engine at a command boundary (R95). -/
def AtBoundary (s : State) : Prop := s.cfg = true ∧ boundaryOk s = true

/-- The fields no step of the engine writes: the peer's inputs, the parameters, the host's read data and the model's own
counters and agenda. -/
def sameSurroundings (s t : State) : Prop :=
  t.envSclLow = s.envSclLow ∧ t.envSdaLow = s.envSdaLow ∧ t.params = s.params ∧ t.hostData = s.hostData ∧
    t.draws = s.draws ∧ t.epoch = s.epoch ∧ t.agenda = s.agenda

/-! ## Runs of one command -/

/-- `k` (µ) steps of the command `i` with no step of another agent between them. -/
def execSteps (i : Instr) : Nat → State → Host.Outcome State Fault Refusal
  | 0, s => .next s
  | k + 1, s =>
    match exec i s with
    | .next t => execSteps i k t
    | .fault f => .fault f
    | .refused r => .refused r

/-- `k` (µ) steps of the command `i` beside a peer that, before each, pulls the data line or lets it go as `pull` says of
the state (one environment step, R63). -/
def peerSteps (pull : State → Bool) (i : Instr) : Nat → State → Host.Outcome State Fault Refusal
  | 0, s => .next s
  | k + 1, s =>
    match exec i (envStep .sda (pull s) s) with
    | .next t => peerSteps pull i k t
    | .fault f => .fault f
    | .refused r => .refused r

/-- A peer that acknowledges every byte the engine sends: it pulls the data line exactly in the acknowledgement
Transfer of an address or payload byte. -/
def ackPull (s : State) : Bool :=
  match s.seq with
  | some q =>
    match q.pos with
    | .addrByte (.ack _) => true
    | .writeByte (.ack _) => true
    | _ => false
  | none => false

/-- A peer that acknowledges its address and sends `bytes i` as byte `i`, most significant bit first: in the data
Transfer of a ReadByte it pulls the line for the bit the countdown stands at. -/
def sendPull (bytes : BitVec 8 → Byte) (s : State) : Bool :=
  match s.seq with
  | some q =>
    match q.pos with
    | .addrByte (.ack _) => true
    | .readByte (.data _) => !(bytes q.loc.i).getLsbD (s.cnt - 1).toNat
    | _ => false
  | none => false

/-! ## The invariant -/

/-- The drivers at each (µ) step of Start() (R91). -/
def startOk (p : StartPos) (s : State) : Bool :=
  lineOk s &&
    match p with
    | .check | .dataHigh | .clockHigh => s.sdaPort
    | .setup | .dataLow => s.sdaPort && s.sclPort
    | .hold | .clockLow => !s.sdaPort && s.sclPort
    | .dataRelease => !s.sdaPort && !s.sclPort
    | .verify => s.sdaPort && !s.sclPort

/-- The drivers at each (µ) step of Stop() (R93). -/
def stopOk (p : StopPos) (s : State) : Bool :=
  lineOk s &&
    match p with
    | .dataLow => s.sdaPort
    | .clockRelease => !s.sdaPort
    | .waitHigh | .hold | .dataRelease => !s.sdaPort && s.sclPort
    | .setup | .verify => s.sdaPort && s.sclPort

/-- The countdown within Transfer(n)'s bit loop: 1..n bits left and OIF = 0 (R23, R24). -/
def counting (n : BitVec 4) (s : State) : Bool :=
  decide (1 ≤ s.cnt.toNat) && decide (s.cnt.toNat ≤ n.toNat) && !s.oif

/-- The drivers and the countdown at each (µ) step of Transfer(n) (R96). With `low`, it was entered with SCL_PORT = 0
(R97); without, the clock port is known only once a bit has been clocked. -/
def xferOk (low : Bool) (n : BitVec 4) (p : XferPos) (s : State) : Bool :=
  s.sclDir && s.sdaPort &&
    match p with
    | .preload => !low || !s.sclPort
    | .setup | .toggle => counting n s && (!(low || decide (s.cnt ≠ n)) || !s.sclPort)
    | .sample => counting n s && (!(low || decide (s.cnt ≠ n)) || s.sclPort)
    | .hold | .toggleBack => counting n s && s.sclPort
    | .shift => counting n s && !s.sclPort
    | .capture => decide (s.cnt = 0) && s.oif && !s.sclPort
    | .dirOut => decide (s.cnt = 0) && s.oif && !s.sclPort && decide (s.sr = 0xFF)

/-- The drivers at each (µ) step of ReadByte (R103). -/
def readOk (low : Bool) (p : ReadPos) (s : State) : Bool :=
  match p with
  | .dirIn => boundaryOk s && (!low || !s.sclPort)
  | .data x => xferOk low 8 x s
  | .dirOut | .loadAck => boundaryOk s && !s.sclPort
  | .ack x => xferOk true 1 x s

/-- The drivers at each (µ) step of WriteByte (R107). -/
def writeOk (p : WritePos) (s : State) : Bool :=
  match p with
  | .clockLow => boundaryOk s
  | .load | .dirIn => boundaryOk s && !s.sclPort
  | .data x => xferOk true 8 x s
  | .ack x => xferOk true 1 x s

/-- The commands whose status can be a START fault (R101, R122). -/
def mayFailStart : Instr → Bool
  | .start => true
  | .writeTxn _ stop _ => !stop
  | .readTxn _ stop _ => !stop
  | .init | .stop | .transfer _ | .readByte _ | .writeByte _ => false

/-- The commands whose status can be MissingStopCondition (R101, R122). -/
def mayFailStop : Instr → Bool
  | .stop => true
  | .writeTxn _ stop _ => stop
  | .readTxn _ stop _ => stop
  | .init | .start | .transfer _ | .readByte _ | .writeByte _ => false

/-- The commands whose status can be SlaveNack (R110, R122). -/
def mayNack : Instr → Bool
  | .writeByte _ => true
  | .writeTxn _ stop _ => !stop
  | .readTxn _ stop _ => !stop
  | .init | .start | .stop | .transfer _ | .readByte _ => false

/-- The statuses a command can finish with (R101, R110, R122). -/
def mayFinish (i : Instr) : Status → Bool
  | .ok => true
  | .unknownStart => mayFailStart i
  | .unknownStop => mayFailStart i
  | .dataCollision => mayFailStart i
  | .missingStartCondition => mayFailStart i
  | .missingStopCondition => mayFailStop i
  | .slaveNack => mayNack i

/-- A transaction's attempt count, 1..RETRY_MAX (R111, R113). -/
def attemptOk (l : Locals) : Bool := decide (1 ≤ l.attempt) && decide (l.attempt ≤ Config.retryMax)

/-- The positions WRITE_TXN and READ_TXN share, with the drivers and the locals of each (R117). -/
def txnPosOk (i : Instr) (stop : Bool) (q : Sequencer) (s : State) : Bool :=
  match q.pos with
  | .start p => startOk p s && attemptOk q.loc
  | .addrByte p => writeOk p s
  | .stop p => stop && stopOk p s
  | .finish => boundaryOk s && mayFinish i q.loc.status
  | _ => false

/-- The sequencer stands at a position of the command `i`, with the drivers, countdown and locals of that position. With
`low`, a TRANSFER or READ_BYTE was issued with SCL_PORT = 0 (R159). -/
def posOk (low : Bool) (i : Instr) (q : Sequencer) (s : State) : Bool :=
  match i with
  | .init =>
    match q.pos with
    | .init => true
    | .finish => boundaryOk s && s.sclPort
    | _ => false
  | .start =>
    match q.pos with
    | .start p => startOk p s
    | .finish => boundaryOk s && mayFinish i q.loc.s
    | _ => false
  | .stop =>
    match q.pos with
    | .stop p => stopOk p s
    | .finish => boundaryOk s && s.sclPort && mayFinish i q.loc.s
    | _ => false
  | .transfer n =>
    match q.pos with
    | .transfer p => xferOk low n p s
    | .finish => boundaryOk s && !s.sclPort
    | _ => false
  | .readByte _ =>
    match q.pos with
    | .readByte p => readOk low p s
    | .finish => boundaryOk s && !s.sclPort
    | _ => false
  | .writeByte _ =>
    match q.pos with
    | .writeByte p => writeOk p s
    | .finish => boundaryOk s && !s.sclPort && mayFinish i q.loc.s
    | _ => false
  | .writeTxn _ stop count =>
    match q.pos with
    | .writeByte p => writeOk p s && decide (q.loc.i.toNat < count.toNat)
    | _ => txnPosOk i stop q s
  | .readTxn _ stop count =>
    match q.pos with
    | .readByte p => readOk true p s && decide (q.loc.i.toNat < count.toNat)
    | .store => boundaryOk s && !s.sclPort && decide (q.loc.i.toNat < count.toNat)
    | _ => txnPosOk i stop q s

/-- The sequencer's part of the invariant: BUSY = 1 exactly when it is not empty (R16, R27); a running command decodes,
is configured unless it is INIT's first step (R20), and stands at one of its positions; an idle configured engine is at
a command boundary (R95). -/
def sequencerOk (s : State) : Bool :=
  match s.seq with
  | none => !s.busy && (!s.cfg || boundaryOk s)
  | some q =>
    s.busy &&
      match decode q.curCmd with
      | .error _ => false
      | .ok i => (s.cfg || decide (q.pos = .init)) && posOk false i q s

/-- The invariant every step keeps: BUF in canonical form, a produced status code (R80), CNT ≤ 8 (R23), and the
sequencer's part. -/
def invariant (s : State) : Bool :=
  Memory.wf s.buf && decide (s.code.toNat ≤ 6) && decide (s.cnt.toNat ≤ 8) && sequencerOk s

/-- `invariant` as a proposition. -/
abbrev Inv (s : State) : Prop := invariant s = true

/-! ## Steps left -/

/-- The (µ) steps Start() has left, the pending check passing (R166: 9). -/
def startLeft : StartPos → Nat
  | .check => 9
  | .dataHigh => 8
  | .clockHigh => 7
  | .setup => 6
  | .dataLow => 5
  | .hold => 4
  | .clockLow => 3
  | .dataRelease => 2
  | .verify => 1

/-- The (µ) steps Stop() has left (R166: 7). -/
def stopLeft : StopPos → Nat
  | .dataLow => 7
  | .clockRelease => 6
  | .waitHigh => 5
  | .hold => 4
  | .dataRelease => 3
  | .setup => 2
  | .verify => 1

/-- The (µ) steps Transfer(n) has left with the countdown at `c` (R166: 1 + 6n + 2). -/
def xferLeft (n c : Nat) : XferPos → Nat
  | .preload => 1 + 6 * n + 2
  | .setup => 6 * c + 2
  | .toggle => 6 * c + 1
  | .sample => 6 * c
  | .hold => 6 * c - 1
  | .toggleBack => 6 * c - 2
  | .shift => 6 * c - 3
  | .capture => 2
  | .dirOut => 1

/-- The (µ) steps ReadByte has left (63 in all). -/
def readLeft (c : Nat) : ReadPos → Nat
  | .dirIn => 63
  | .data x => xferLeft 8 c x + 11
  | .dirOut => 11
  | .loadAck => 10
  | .ack x => xferLeft 1 c x

/-- The (µ) steps WriteByte has left (63 in all). -/
def writeLeft (c : Nat) : WritePos → Nat
  | .clockLow => 63
  | .load => 62
  | .data x => xferLeft 8 c x + 10
  | .dirIn => 10
  | .ack x => xferLeft 1 c x

/-- The (µ) steps of a transaction's trailing Stop() and its `finish`. -/
def endLeft (stop : Bool) : Nat := (if stop then 7 else 0) + 1

/-- The (µ) steps a transaction's payload takes: 63 a byte sent, 64 a byte received and stored. -/
def payloadLeft : Instr → Nat
  | .writeTxn _ _ count => 63 * count.toNat
  | .readTxn _ _ count => 64 * count.toNat
  | .init | .start | .stop | .transfer _ | .readByte _ | .writeByte _ => 0

/-- The (µ) steps left at the positions WRITE_TXN and READ_TXN share. -/
def txnLeft (i : Instr) (stop : Bool) (q : Sequencer) (c : Nat) : Nat :=
  match q.pos with
  | .start p => startLeft p + (Config.retryMax - q.loc.attempt) + 63 + payloadLeft i + endLeft stop
  | .addrByte p => writeLeft c p + payloadLeft i + endLeft stop
  | .stop p => stopLeft p + 1
  | .finish => 1
  | _ => 0

/-- The most (µ) steps the command `i` has left at the position of `q`, its `finish` step among them, when no wait is
held (70 R163, R166). -/
def stepsLeft (i : Instr) (q : Sequencer) (s : State) : Nat :=
  match i with
  | .init =>
    match q.pos with
    | .init => 2
    | .finish => 1
    | _ => 0
  | .start =>
    match q.pos with
    | .start p => startLeft p + 1
    | .finish => 1
    | _ => 0
  | .stop =>
    match q.pos with
    | .stop p => stopLeft p + 1
    | .finish => 1
    | _ => 0
  | .transfer n =>
    match q.pos with
    | .transfer p => xferLeft n.toNat s.cnt.toNat p + 1
    | .finish => 1
    | _ => 0
  | .readByte _ =>
    match q.pos with
    | .readByte p => readLeft s.cnt.toNat p + 1
    | .finish => 1
    | _ => 0
  | .writeByte _ =>
    match q.pos with
    | .writeByte p => writeLeft s.cnt.toNat p + 1
    | .finish => 1
    | _ => 0
  | .writeTxn _ stop count =>
    match q.pos with
    | .writeByte p => writeLeft s.cnt.toNat p + 63 * (count.toNat - 1 - q.loc.i.toNat) + endLeft stop
    | _ => txnLeft i stop q s.cnt.toNat
  | .readTxn _ stop count =>
    match q.pos with
    | .readByte p => readLeft s.cnt.toNat p + 1 + 64 * (count.toNat - 1 - q.loc.i.toNat) + endLeft stop
    | .store => 1 + 64 * (count.toNat - 1 - q.loc.i.toNat) + endLeft stop
    | _ => txnLeft i stop q s.cnt.toNat

/-- The steps the running command has left; none when no command runs. -/
def commandLeft (i : Instr) (s : State) : Nat :=
  match s.seq with
  | none => 0
  | some q => stepsLeft i q s

/-! ## Single steps -/

/-- The positions at which a Transfer's preload stands. -/
def atPreload : Pos → Bool
  | .transfer .preload => true
  | .readByte (.data .preload) | .readByte (.ack .preload) => true
  | .writeByte (.data .preload) | .writeByte (.ack .preload) => true
  | .addrByte (.data .preload) | .addrByte (.ack .preload) => true
  | _ => false

/-- The positions at which a `WaitSclHigh` stands: STOP's, and one in each clocked bit (R43, R137). -/
def atWait : Pos → Bool
  | .stop .waitHigh => true
  | .transfer .sample => true
  | .readByte (.data .sample) | .readByte (.ack .sample) => true
  | .writeByte (.data .sample) | .writeByte (.ack .sample) => true
  | .addrByte (.data .sample) | .addrByte (.ack .sample) => true
  | _ => false

/-- The position of a running command, INIT's when none runs. -/
def posOf (s : State) : Pos :=
  match s.seq with
  | none => .init
  | some q => q.pos

/-- The next step is the engine's, running its command: the agenda is empty or has the engine first, and BUSY = 1. -/
def enginesTurn (s : State) : Bool :=
  s.busy &&
    match s.agenda with
    | [] => true
    | .engine :: _ => true
    | _ => false

/-- The next step is a reset. -/
def resetsNext (s : State) : Bool :=
  match s.agenda with
  | .reset :: _ => true
  | _ => false

end Sys2Proof.Machine
end

