-- ==== Sys2Proof/Certificates/Slice0/Obligations.lean ====
section
/-! DEFINITION. The statements for the provers, in the order of spec/: encodings, reset, the eight commands, what they
leave alone, flags and detector, the host's accesses, holds and hangs, the step, the invariants and progress. Runs of one
command are `execSteps` (no other agent between) and `peerSteps` (beside a peer); see Sys2Proof/Safety.lean. -/

open Sys2Proof Sys2Proof.Machine

/-! ## Encodings (30_encoding.md) -/

/-- Decode and encode agree: every well-formed command's word decodes to it, with every operand (R72 to R79, R87). -/
def Obligations.EncodedCommandDecodesBack : Prop :=
  ∀ i : Instr, WellFormed i → decode (encode i) = .ok i

/-- The other direction: a word that decodes is the word of what it decodes to, which is well formed (R84: one row).
-/
def Obligations.DecodedWordIsItsEncoding : Prop :=
  ∀ (w : Word) (i : Instr), decode w = .ok i → WellFormed i ∧ encode i = w

/-- R84's list of reserved words is exactly what the decoder rejects; a CMD write of one is refused in every state: by
an idle configured engine as ReservedCommand, by an idle engine with CFG = 0 as ReservedCommand or NotInitialised,
which R142 both list (which of the two is log 11's, and this does not fix it); any other word matches exactly one row
(match, mask) of opcode_table.json. -/
def Obligations.ReservedWordsAreThoseListed : Prop :=
  ∀ w : Word,
    let reserved : Prop :=
      opField w = 0 ∨ 9 ≤ (opField w).toNat ∨ reservedField w ≠ 0 ∨
      ((opField w).toNat ≤ 6 ∧ (addrField w ≠ 0 ∨ stopField w = true ∨ countField w ≠ 0)) ∨
      ((opField w).toNat ∉ [4, 5, 6] ∧ argField w ≠ 0) ∨
      (opField w = 4 ∧ ((argField w).extractLsb' 4 4 ≠ 0 ∨ ¬(1 ≤ ((argField w).extractLsb' 0 4).toNat ∧
        ((argField w).extractLsb' 0 4).toNat ≤ 8))) ∨
      (opField w = 5 ∧ (argField w).extractLsb' 1 7 ≠ 0) ∨
      (opField w = 8 ∧ countField w = 0)
    let rows : List (Word × Word) :=
      [(0x10000000, 0xFFFFFFFF), (0x20000000, 0xFFFFFFFF), (0x30000000, 0xFFFFFFFF), (0x40000000, 0xFFFFFFF0),
       (0x50000000, 0xFFFFFFFE), (0x60000000, 0xFFFFFF00), (0x70000000, 0xF00F00FF), (0x80000000, 0xF00F00FF)]
    (reserved ↔ ∀ i, decode w ≠ .ok i) ∧
      (reserved → ∀ s, (∃ r, hostAccess (.write 0x000 4 w) s = .refused r) ∧
        (s.busy = false → s.cfg = true → hostAccess (.write 0x000 4 w) s = .refused .reservedCommand) ∧
        (s.busy = false → s.cfg = false → hostAccess (.write 0x000 4 w) s = .refused .reservedCommand ∨
          hostAccess (.write 0x000 4 w) s = .refused .notInitialised)) ∧
      (¬reserved → (rows.filter fun r => decide (w &&& r.2 = r.1)).length = 1)

/-- A few words of the spec's tables, decoded (R75 to R79, 95 L2 "Decoding"). -/
def Obligations.SpecWordsDecodeAsListed : Prop :=
  decode 0x10000000 = .ok .init ∧ decode 0x20000000 = .ok .start ∧ decode 0x30000000 = .ok .stop ∧
    decode 0x40000008 = .ok (.transfer 8) ∧ decode 0x50000001 = .ok (.readByte true) ∧
    decode 0x600000A5 = .ok (.writeByte 0xA5) ∧ decode 0x7A100200 = .ok (.writeTxn 0x50 true 2) ∧
    decode 0x8FF00100 = .ok (.readTxn 0x7F true 1) ∧ decode 0x40000009 = .error .bitCount ∧
    decode 0x8A100000 = .error .readCount ∧ decode 0x7A110200 = .error .unusedField ∧
    decode 0x90000000 = .error .opcode

/-- R80's table: the code of each status, and no other code is produced. -/
def Obligations.StatusCodesAreTheTable : Prop :=
  encStatus .ok = 0 ∧ encStatus .unknownStart = 1 ∧ encStatus .unknownStop = 2 ∧ encStatus .dataCollision = 3 ∧
    encStatus .missingStartCondition = 4 ∧ encStatus .missingStopCondition = 5 ∧ encStatus .slaveNack = 6 ∧
    (∀ st, (encStatus st).toNat < 7) ∧ ∀ s t, encStatus s = encStatus t → s = t

/-- R81: the byte a transaction sends first, at the step that loads it: ADDR in bits [7:1], the direction in bit [0].
-/
def Obligations.TransactionsSendTheAddressByte : Prop :=
  ∀ (addr : BitVec 7) (stop : Bool) (count : BitVec 8) (s : State), AtPos (.addrByte .load) s →
    (∃ t, exec (.writeTxn addr stop count) s = .next t ∧ AtPos (.addrByte (.data .preload)) t ∧
      t.sr = addr ++ 0#1 ∧ t.sr.toNat = 2 * addr.toNat) ∧
    (WellFormed (.readTxn addr stop count) →
      ∃ t, exec (.readTxn addr stop count) s = .next t ∧ AtPos (.addrByte (.data .preload)) t ∧
        t.sr = addr ++ 1#1 ∧ t.sr.toNat = 2 * addr.toNat + 1)

/-! ## Reset (70_reset_and_hazards.md) -/

/-- The reset values of R17 and R151, and the host's views of them (R47, R49, R50, R51). The inputs of the environment
(no other device pulls) and the model's own fields are the model's choice, logs 2, 3, 5, 6, 10 and 15. -/
def Obligations.ResetStateHasTheListedValues : Prop :=
  let s := State.reset
  s.cfg = false ∧ s.sclDir = false ∧ s.sclPort = true ∧ s.sdaDir = false ∧ s.sdaPort = true ∧ s.sr = 0xFF ∧
    s.latch = true ∧ s.cnt = 0 ∧ s.oif = false ∧ s.sif = false ∧ s.pf = false ∧ s.busy = false ∧ s.code = 0x00 ∧
    s.rxdata = 0x00 ∧ s.seq = none ∧ statusWord s = 0 ∧ rxdataWord s = 0 ∧ flagsWord s = 0 ∧ linesWord s = 0x0000FF2B

/-- R151: a reset takes effect at once in every state, also in the middle of a command or at a hold or a hang, and
ends the command without a `finish`; a host read of BUF[i] then returns some value, which this statement does not fix.
-/
def Obligations.ResetTakesEffectInEveryState : Prop :=
  ∀ (s : State) (rest : List Event), s.agenda = .reset :: rest →
    ∃ t, step s = .next t ∧
      t.cfg = false ∧ t.sclDir = false ∧ t.sclPort = true ∧ t.sdaDir = false ∧ t.sdaPort = true ∧ t.sr = 0xFF ∧
      t.latch = true ∧ t.cnt = 0 ∧ t.oif = false ∧ t.sif = false ∧ t.pf = false ∧ t.busy = false ∧ t.code = 0x00 ∧
      t.rxdata = 0x00 ∧ t.seq = none ∧
      ∀ i : BitVec 8, ∃ v, hostAccess (.read (0x400 + 4 * i.toNat) 4) t = .next { t with hostData := v }

/-! ## Signal Layer (40_signal_layer.md) -/

/-- R89, R90, R153: INIT, issued in any state, takes one step that sets both drivers and clears the flags, whatever
the lines do, and a `finish(Ok)`; with no peer pulling, FLAGS and LINES read as the spec lists. -/
def Obligations.InitConfiguresTheEngine : Prop :=
  ∀ s : State, JustIssued .init s →
    ∃ t u, exec .init s = .next t ∧ exec .init t = .next u ∧ t.busy = true ∧
      (∀ v ∈ [t, u], v.cfg = true ∧ v.sr = 0xFF ∧ v.sclPort = true ∧ v.sdaPort = true ∧ v.sclDir = true ∧
        v.sdaDir = true ∧ v.sif = false ∧ v.pf = false ∧ v.oif = false ∧ v.cnt = 0) ∧
      u.busy = false ∧ u.seq = none ∧ u.code = 0 ∧ u.rxdata = s.rxdata ∧ u.buf = s.buf ∧ u.latch = s.latch ∧
      (PeerQuiet s → flagsWord u = 0x00000100 ∧ linesWord u = 0x0000FF3F)

/-- R91, R92 (a), (b): with no flag pending and no peer pulling, START from an idle or a held bus takes ten steps,
makes a start condition and no stop condition, finishes with Ok and leaves SCL low and SDA released. -/
def Obligations.StartMakesAStartCondition : Prop :=
  ∀ s : State, JustIssued .start s → AtBoundary s → PeerQuiet s → s.sif = false → s.pf = false →
    ∃ t, execSteps .start 10 s = .next t ∧ t.busy = false ∧ t.seq = none ∧ t.code = 0 ∧ t.sif = true ∧ t.pf = false ∧
      AtBoundary t ∧ linesWord t = 0x0000FF36

/-- R91, R92 (g), R140: a pending flag ends START in two steps with the fault of the first pending one in the order
SIF, PF, DC, and nothing else has changed: no line, no flag. -/
def Obligations.StartReportsThePendingFault : Prop :=
  ∀ s : State, JustIssued .start s → s.params.checkPending = true → (s.sif || s.pf || collision s) = true →
    execSteps .start 2 s =
      .next { s with code := (if s.sif then 1 else if s.pf then 2 else 3), busy := false, seq := none }

/-- R92 (c): START does not wait for a clock the peer holds low; no start condition is seen and its verification
reports MissingStartCondition, when configured. -/
def Obligations.StartBesideAHeldClock : Prop :=
  ∀ s : State, JustIssued .start s → AtBoundary s → s.envSclLow = true → s.envSdaLow = false → s.sif = false →
    s.pf = false →
    ∃ t, execSteps .start 10 s = .next t ∧ t.busy = false ∧ t.sif = false ∧
      t.code = (if s.params.verifyStart then 4 else 0)

/-- R92 (d): with the peer holding SDA low, START reports DataCollision when CHECK_PENDING; otherwise its sequence
runs, SDA never falls, and it reports MissingStartCondition when VERIFY_START. -/
def Obligations.StartBesideHeldData : Prop :=
  ∀ s : State, JustIssued .start s → AtBoundary s → s.envSdaLow = true → s.sif = false → s.pf = false →
    (s.params.checkPending = true → ∃ t, execSteps .start 2 s = .next t ∧ t.busy = false ∧ t.code = 3) ∧
    (s.params.checkPending = false →
      ∃ t, execSteps .start 10 s = .next t ∧ t.busy = false ∧ t.sif = false ∧
        t.code = (if s.params.verifyStart then 4 else 0))

/-- R92 (e): SIF is sticky, so with CHECK_PENDING false and SIF set START's verification passes, whatever the peer
does to the lines beforehand. -/
def Obligations.StartPassesOnAStickyFlag : Prop :=
  ∀ s : State, JustIssued .start s → AtBoundary s → s.sif = true → s.params.checkPending = false →
    ∃ t, execSteps .start 10 s = .next t ∧ t.busy = false ∧ t.code = 0 ∧ t.sif = true

/-- R93, R94 (c), (d), (e): with no peer pulling, STOP takes eight steps, finishes with Ok, PF cleared and both lines
released and high; entered with the clock released it makes a start condition first (SIF set). -/
def Obligations.StopMakesAStopCondition : Prop :=
  ∀ s : State, JustIssued .stop s → AtBoundary s → PeerQuiet s →
    ∃ t, execSteps .stop 8 s = .next t ∧ t.busy = false ∧ t.seq = none ∧ t.code = 0 ∧ t.pf = false ∧
      t.sif = (s.sif || s.sclPort) ∧ AtBoundary t ∧ linesWord t = 0x0000FF3F

/-- R94 (b): with the peer holding SDA low and no stop flag pending, STOP reports MissingStopCondition when
VERIFY_STOP; when the peer lets go later, PF is set. -/
def Obligations.StopBesideHeldData : Prop :=
  ∀ s : State, JustIssued .stop s → AtBoundary s → s.envSclLow = false → s.envSdaLow = true → s.pf = false →
    ∃ t, execSteps .stop 8 s = .next t ∧ t.busy = false ∧ t.pf = false ∧
      t.code = (if s.params.verifyStop then 5 else 0) ∧ (envStep .sda false t).pf = true

/-- R94 (a), R137: with the peer holding SCL low STOP stays at its wait for any number of turns, and once the peer
lets go it finishes as otherwise. -/
def Obligations.StopWaitsForAHeldClock : Prop :=
  ∀ s : State, JustIssued .stop s → AtBoundary s → s.envSclLow = true → s.envSdaLow = false →
    ∃ t u, execSteps .stop 2 s = .next t ∧ (∀ k, execSteps .stop k t = .next t) ∧ t.busy = true ∧
      execSteps .stop 6 (envStep .scl false t) = .next u ∧ u.busy = false ∧ u.code = 0 ∧ u.pf = false

/-- R96, R97: one clocked bit of TRANSFER, entered with the clock driven low and not held: the data level is sampled
and shifted in at the low end, the countdown falls by one and OIF tells whether it reached 0; the clock is low again
and no condition flag has changed. -/
def Obligations.ClockedBitShiftsInTheSample : Prop :=
  ∀ (n : BitVec 4) (s : State), WellFormed (.transfer n) → AtPos (.transfer .setup) s → s.sclDir = true →
    s.sclPort = false → s.envSclLow = false →
    ∃ t, execSteps (.transfer n) 6 s = .next t ∧ t.sr = s.sr.extractLsb' 0 7 ++ BitVec.ofBool (sdaLevel s) ∧
      t.cnt = s.cnt - 1 ∧ t.oif = (s.oif || decide (s.cnt = 1)) ∧ t.sclPort = false ∧ t.sif = s.sif ∧ t.pf = s.pf ∧
      AtPos (.transfer (if s.oif || decide (s.cnt = 1) then .capture else .setup)) t

/-- R96, R166: TRANSFER n, issued with the clock driven low and not held, takes 1 + 6n + 2 steps and its `finish`,
finishes with Ok and RXDATA = the n samples shifted into 0xFF (all 1 with SDA free, all 0 with the peer holding it).
-/
def Obligations.TransferClocksNBits : Prop :=
  ∀ (n : BitVec 4) (s : State), WellFormed (.transfer n) → JustIssued (.transfer n) s → AtBoundary s →
    s.sclPort = false → s.envSclLow = false →
    ∃ t, execSteps (.transfer n) (1 + 6 * n.toNat + 2 + 1) s = .next t ∧ t.busy = false ∧ t.seq = none ∧ t.code = 0 ∧
      t.rxdata = (if s.envSdaLow then (0xFF#8) <<< n.toNat else 0xFF) ∧ t.sr = 0xFF ∧ t.cnt = 0 ∧ t.oif = true ∧
      t.sif = false ∧ t.pf = false ∧ t.sclPort = false ∧ AtBoundary t

/-- R98 (a), R105 (a), R138, R159: issued with the clock released, TRANSFER and READ_BYTE drive it low themselves and
then wait for it: the fault HangOwnClock at every later turn, whatever the peer does to the lines. -/
def Obligations.ReleasedClockHangsTransferAndReadByte : Prop :=
  ∀ (i : Instr) (s : State), WellFormed i → JustIssued i s → AtBoundary s → s.sclPort = true →
    ((∃ n, i = .transfer n) ∨ ∃ more, i = .readByte more) →
    ∃ k t, k ≤ 4 ∧ execSteps i k s = .next t ∧ t.busy = true ∧ exec i t = .fault .hangOwnClock ∧
      ∀ line low, exec i (envStep line low t) = .fault .hangOwnClock

/-! ## Byte Layer (41_byte_layer.md) -/

/-- R103, R104, R106: beside a peer that presents the byte `b`, most significant bit first, READ_BYTE issued with the
clock driven low takes 64 steps and finishes with Ok and RXDATA = b, the bus held and the data line released. -/
def Obligations.ReadByteReturnsThePeersByte : Prop :=
  ∀ (more : Bool) (b : Byte) (s : State), JustIssued (.readByte more) s → AtBoundary s → s.sclPort = false →
    s.envSclLow = false →
    ∃ t, peerSteps (sendPull fun _ => b) (.readByte more) 64 s = .next t ∧ t.busy = false ∧ t.code = 0 ∧ t.rxdata = b ∧
      t.sclPort = false ∧ AtBoundary t ∧ t.buf = s.buf

/-- R83, R104, R118: at the acknowledgement clock of a byte it receives, the engine pulls SDA (ACK) when another byte
is expected and lets it go (NACK) after the last one, in READ_BYTE and in READ_TXN. -/
def Obligations.ReceiverAcknowledgesAllButTheLast : Prop :=
  ∀ s : State, AtPos (.readByte .loadAck) s → boundaryOk s = true → s.sclPort = false → s.envSclLow = false →
    (∀ more, ∃ t, execSteps (.readByte more) 4 s = .next t ∧ AtPos (.readByte (.ack .sample)) t ∧
      sclLevel t = true ∧ sdaPulled t = more) ∧
    ∀ addr stop count q, WellFormed (.readTxn addr stop count) → s.seq = some q →
      ∃ t, execSteps (.readTxn addr stop count) 4 s = .next t ∧ AtPos (.readByte (.ack .sample)) t ∧
        sclLevel t = true ∧ sdaPulled t = decide (q.loc.i.toNat + 1 < count.toNat)

/-- R107, R109 (c): with no peer answering, WRITE_BYTE takes 64 steps and finishes with SlaveNack, from an idle as
from a held bus; RXDATA and BUF are unchanged. -/
def Obligations.WriteByteWithoutPeerIsNack : Prop :=
  ∀ (v : Byte) (s : State), JustIssued (.writeByte v) s → AtBoundary s → PeerQuiet s →
    ∃ t, execSteps (.writeByte v) 64 s = .next t ∧ t.busy = false ∧ t.code = 6 ∧ t.rxdata = s.rxdata ∧ t.buf = s.buf ∧
      t.sclPort = false ∧ AtBoundary t

/-- R107: beside a peer that acknowledges, WRITE_BYTE finishes with Ok for every value, RXDATA and BUF unchanged. -/
def Obligations.WriteByteAcknowledgedIsOk : Prop :=
  ∀ (v : Byte) (s : State), JustIssued (.writeByte v) s → AtBoundary s → s.envSclLow = false →
    ∃ t, peerSteps ackPull (.writeByte v) 64 s = .next t ∧ t.busy = false ∧ t.code = 0 ∧ t.rxdata = s.rxdata ∧
      t.buf = s.buf ∧ t.sclPort = false ∧ AtBoundary t

/-- R97, R107: the byte WRITE_BYTE puts on SDA, as sampled at the eight clock-high phases with no other device
pulling, is VALUE, most significant bit first (it is what the data Transfer captures, which the engine then discards).
-/
def Obligations.WriteByteCarriesItsValue : Prop :=
  ∀ (v : Byte) (s : State), JustIssued (.writeByte v) s → AtBoundary s → PeerQuiet s →
    ∃ t q, execSteps (.writeByte v) 52 s = .next t ∧ t.seq = some q ∧ q.pos = .writeByte (.data .dirOut) ∧
      q.loc.result = v

/-! ## Transaction Layer (42_transaction_layer.md) -/

/-- R115 (a), (b), R120 (a), R114: with no peer, a transaction on a free bus sends its address byte and gets a NACK.
With STOP = 0 it finishes with SlaveNack after 73 steps, the bus held; with STOP = 1 the stop runs and its Ok replaces
the NACK. No payload byte is sent or received: BUF is unchanged. -/
def Obligations.AddressNackEndsTheTransaction : Prop :=
  ∀ (i : Instr) (addr : BitVec 7) (stop : Bool) (count : BitVec 8) (s : State),
    i = .writeTxn addr stop count ∨ i = .readTxn addr stop count → WellFormed i → JustIssued i s → AtBoundary s →
    PeerQuiet s → s.sif = false → s.pf = false →
    ∃ t, execSteps i (if stop then 80 else 73) s = .next t ∧ t.busy = false ∧ t.code = (if stop then 0 else 6) ∧
      t.buf = s.buf ∧ t.rxdata = s.rxdata ∧ linesWord t = (if stop then 0x0000FF3F else 0x0000FF36)

/-- R112, R115 (d), R121: a START fault the pending check reports on every attempt makes exactly RETRY_MAX = 3
attempts, changing no line and no flag, and with STOP = 0 finishes with the last attempt's status. -/
def Obligations.PendingFaultExhaustsTheRetries : Prop :=
  ∀ (i : Instr) (addr : BitVec 7) (count : BitVec 8) (s : State),
    i = .writeTxn addr false count ∨ i = .readTxn addr false count → WellFormed i → JustIssued i s →
    s.params.checkPending = true → (s.sif || s.pf || collision s) = true →
    (∀ k t, k < 3 → execSteps i k s = .next t → ∃ q, t.seq = some q ∧ q.pos = .start .check ∧ q.loc.attempt = k + 1) ∧
    execSteps i 4 s =
      .next { s with code := (if s.sif then 1 else if s.pf then 2 else 3), busy := false, seq := none }

/-- R112: MissingStartCondition is not retried: beside a held clock a transaction with STOP = 0 finishes with code 4
after one attempt, when START verifies. -/
def Obligations.MissingStartIsNotRetried : Prop :=
  ∀ (i : Instr) (addr : BitVec 7) (count : BitVec 8) (s : State),
    i = .writeTxn addr false count ∨ i = .readTxn addr false count → WellFormed i → JustIssued i s → AtBoundary s →
    s.envSclLow = true → s.envSdaLow = false → s.sif = false → s.pf = false → s.params.verifyStart = true →
    ∃ t, execSteps i 10 s = .next t ∧ t.busy = false ∧ t.code = 4 ∧ t.buf = s.buf

/-- R113, R115 (f), (g), R116: beside a peer that acknowledges, WRITE_TXN on a free bus sends its address byte and its
COUNT payload bytes in 9 + 63 (COUNT + 1) steps, then its stop if asked, and finishes with Ok; BUF is unchanged. -/
def Obligations.AcknowledgedWriteFinishesOk : Prop :=
  ∀ (addr : BitVec 7) (stop : Bool) (count : BitVec 8) (s : State), JustIssued (.writeTxn addr stop count) s →
    AtBoundary s → s.envSclLow = false → s.envSdaLow = false → s.sif = false → s.pf = false →
    ∃ t, peerSteps ackPull (.writeTxn addr stop count)
        (9 + 63 * (count.toNat + 1) + (if stop then 7 else 0) + 1) s = .next t ∧
      t.busy = false ∧ t.code = 0 ∧ t.buf = s.buf ∧ t.rxdata = s.rxdata ∧ t.sclPort = stop ∧ AtBoundary t

/-- R70, R108, R116: payload byte `i` of WRITE_TXN is BUF[i], read at its load step. -/
def Obligations.WritePayloadIsTheBuffer : Prop :=
  ∀ (addr : BitVec 7) (stop : Bool) (count : BitVec 8) (s : State) (q : Sequencer), s.seq = some q →
    q.pos = .writeByte .load →
    ∃ t, exec (.writeTxn addr stop count) s = .next t ∧ t.sr = bufRead q.loc.i s ∧
      AtPos (.writeByte (.data .preload)) t

/-- R117, R118, R119: beside a peer that acknowledges its address and sends `bytes i` as byte `i`, READ_TXN on a free
bus delivers them to BUF[0 .. COUNT-1] and finishes with Ok; the other bytes of BUF and RXDATA are unchanged. -/
def Obligations.ReadDeliversThePeersBytes : Prop :=
  ∀ (addr : BitVec 7) (stop : Bool) (count : BitVec 8) (bytes : BitVec 8 → Byte) (s : State),
    WellFormed (.readTxn addr stop count) → JustIssued (.readTxn addr stop count) s → AtBoundary s →
    s.envSclLow = false → s.envSdaLow = false → s.sif = false → s.pf = false →
    ∃ t, peerSteps (sendPull bytes) (.readTxn addr stop count)
        (9 + 63 + 64 * count.toNat + (if stop then 7 else 0) + 1) s = .next t ∧
      t.busy = false ∧ t.code = 0 ∧ t.rxdata = s.rxdata ∧ t.sclPort = stop ∧ AtBoundary t ∧
      ∀ j : BitVec 8, bufRead j t = if j.toNat < count.toNat then bytes j else bufRead j s

/-- R114: with STOP = 1 a transaction reaches its `finish` only from the last step of Stop(), and finishes with the
status that step gives. -/
def Obligations.StopBitAlwaysRunsTheStop : Prop :=
  ∀ (i : Instr) (addr : BitVec 7) (count : BitVec 8) (s t : State),
    i = .writeTxn addr true count ∨ i = .readTxn addr true count → exec i s = .next t → AtPos .finish t →
    s ≠ t → AtPos (.stop .verify) s ∧ ∃ q, t.seq = some q ∧ q.loc.status = verifyStopStatus s

/-- R112, R122: a NACK of any byte ends a transaction's loop: the next position is the trailing Stop() or `finish`,
never a retry or another byte. -/
def Obligations.NackEndsTheLoopAtOnce : Prop :=
  ∀ (i : Instr) (addr : BitVec 7) (stop : Bool) (count : BitVec 8) (s : State) (q : Sequencer),
    i = .writeTxn addr stop count ∨ i = .readTxn addr stop count → WellFormed i → s.seq = some q →
    (q.pos = .addrByte (.ack .dirOut) ∨ q.pos = .writeByte (.ack .dirOut) ∧ i = .writeTxn addr stop count) →
    q.loc.result.getLsbD 0 = true →
    ∃ t r, exec i s = .next t ∧ t.seq = some r ∧ r.loc.status = .slaveNack ∧
      r.pos = (if stop then .stop .dataLow else .finish)

/-- R101, R110, R122: the codes each command can finish with, from every state that meets the invariant. -/
def Obligations.CommandsFinishWithTheirCodes : Prop :=
  ∀ (i : Instr) (s t : State) (q : Sequencer), Inv s → s.seq = some q → decode q.curCmd = .ok i →
    exec i s = .next t → t.busy = false →
    match i with
    | .init | .transfer _ | .readByte _ => t.code = 0
    | .start => t.code ∈ [0, 1, 2, 3, 4]
    | .stop => t.code ∈ [0, 5]
    | .writeByte _ => t.code ∈ [0, 6]
    | .writeTxn _ stop _ | .readTxn _ stop _ => if stop then t.code ∈ [0, 5] else t.code ∈ [0, 1, 2, 3, 4, 6]

/-! ## What the commands leave alone -/

/-- A step of INIT, START or STOP leaves LATCH, RXDATA, every byte of BUF and the surroundings unchanged, CODE and
BUSY too but at `finish`; START and STOP leave CFG, SR, CNT, OIF and the directions unchanged and clear no flag but
STOP's last step PF. -/
def Obligations.SignalCommandsFrame : Prop :=
  ∀ (i : Instr) (s t : State), i ∈ [Instr.init, .start, .stop] → exec i s = .next t →
    t.latch = s.latch ∧ t.rxdata = s.rxdata ∧ (∀ j, bufRead j t = bufRead j s) ∧ sameSurroundings s t ∧
      (¬AtPos .finish s → t.code = s.code ∧ t.busy = s.busy) ∧
      (i ≠ .init → t.cfg = s.cfg ∧ t.sr = s.sr ∧ t.cnt = s.cnt ∧ t.oif = s.oif ∧ t.sclDir = s.sclDir ∧
        t.sdaDir = s.sdaDir ∧ (s.sif = true → t.sif = true) ∧ (s.pf = true → ¬AtPos (.stop .verify) s → t.pf = true))

/-- A step of TRANSFER, READ_BYTE or WRITE_BYTE leaves CFG, SCL_DIR, SDA_PORT, every byte of BUF and the surroundings
unchanged; CODE, BUSY and RXDATA too but at `finish`, and WRITE_BYTE leaves RXDATA there too; SDA_DIR turns to input
nowhere but at ReadByte's first step and WriteByte's switch to input. -/
def Obligations.ByteCommandsFrame : Prop :=
  ∀ (i : Instr) (s t : State),
    ((∃ n, i = .transfer n) ∨ (∃ more, i = .readByte more) ∨ ∃ v, i = .writeByte v) → exec i s = .next t →
    t.cfg = s.cfg ∧ t.sclDir = s.sclDir ∧ t.sdaPort = s.sdaPort ∧ (∀ j, bufRead j t = bufRead j s) ∧
      sameSurroundings s t ∧ (¬AtPos .finish s → t.code = s.code ∧ t.busy = s.busy ∧ t.rxdata = s.rxdata) ∧
      ((∃ v, i = .writeByte v) → t.rxdata = s.rxdata) ∧
      (s.sdaDir = true → t.sdaDir = true ∨ AtPos (.readByte .dirIn) s ∨ AtPos (.writeByte .dirIn) s)

/-- A step of WRITE_TXN or READ_TXN leaves CFG, SCL_DIR, RXDATA and the surroundings unchanged, CODE and BUSY too but
at `finish`. WRITE_TXN leaves every byte of BUF; READ_TXN every byte but BUF[i] at its store step, which gets `b`. -/
def Obligations.TransactionsFrame : Prop :=
  ∀ (i : Instr) (addr : BitVec 7) (stop : Bool) (count : BitVec 8) (s t : State) (q : Sequencer),
    i = .writeTxn addr stop count ∨ i = .readTxn addr stop count → s.seq = some q → exec i s = .next t →
    t.cfg = s.cfg ∧ t.sclDir = s.sclDir ∧ t.rxdata = s.rxdata ∧ sameSurroundings s t ∧
      (¬AtPos .finish s → t.code = s.code ∧ t.busy = s.busy) ∧
      (∀ j, bufRead j t = if i = .readTxn addr stop count ∧ q.pos = .store ∧ j = q.loc.i then q.loc.b else bufRead j s)

/-- R36: a step of any command but INIT's one step changes at most one of the engine's two pulls; an environment step
changes the one input it names; so a step of the system that is no reset (reset is no agent's step) changes at most
one sensed line, except at INIT. -/
def Obligations.AtMostOneLineChanges : Prop :=
  (∀ (i : Instr) (s t : State), exec i s = .next t → ¬AtPos .init s →
    sclPulled t = sclPulled s ∨ sdaPulled t = sdaPulled s) ∧
  (∀ (s : State) (low : Bool),
    (envStep .scl low s).envSclLow = low ∧ (envStep .scl low s).envSdaLow = s.envSdaLow ∧
      (envStep .sda low s).envSdaLow = low ∧ (envStep .sda low s).envSclLow = s.envSclLow) ∧
  ∀ s t : State, step s = .next t → resetsNext s = false → ¬(enginesTurn s = true ∧ posOf s = .init) →
    sclLevel t = sclLevel s ∨ sdaLevel t = sdaLevel s

/-! ## Flags and detector (10_state.md) -/

/-- R33, R34, R35: in a step of any agent but a reset, with CFG = 1 and SCL high before and after, a fall of SDA sets
SIF and a rise sets PF, unless the step is one that clears the flag itself. -/
def Obligations.DetectorSeesConditions : Prop :=
  ∀ s t : State, step s = .next t → s.cfg = true → resetsNext s = false → sclLevel s = true → sclLevel t = true →
    (sdaLevel s = true → sdaLevel t = false →
      ¬(enginesTurn s = true ∧ (posOf s = .init ∨ atPreload (posOf s) = true)) → t.sif = true) ∧
    (sdaLevel s = false → sdaLevel t = true →
      ¬(enginesTurn s = true ∧ (posOf s = .init ∨ atPreload (posOf s) = true ∨ posOf s = .stop .verify)) → t.pf = true)

/-- R33, R34, R35 (a), (b): SIF and PF are set by nothing else: a step in which SIF rises shows SDA falling with SCL
high before and after and CFG = 1, and one in which PF rises shows SDA rising so. -/
def Obligations.OnlyTheDetectorSetsConditionFlags : Prop :=
  ∀ s t : State, step s = .next t →
    (s.sif = false → t.sif = true → s.cfg = true ∧ sclLevel s = true ∧ sclLevel t = true ∧ sdaLevel s = true ∧
      sdaLevel t = false) ∧
    (s.pf = false → t.pf = true → s.cfg = true ∧ sclLevel s = true ∧ sclLevel t = true ∧ sdaLevel s = false ∧
      sdaLevel t = true)

/-- R24 to R26, R37: SIF, PF and OIF are cleared by nothing but reset, INIT's step and a Transfer's preload, and PF by
STOP's last step too; CFG falls only at reset (R20). -/
def Obligations.FlagsAreClearedOnlyByTheirWriters : Prop :=
  ∀ s t : State, step s = .next t → resetsNext s = false →
    (s.sif = true → t.sif = false → enginesTurn s = true ∧ (posOf s = .init ∨ atPreload (posOf s) = true)) ∧
    (s.oif = true → t.oif = false → enginesTurn s = true ∧ (posOf s = .init ∨ atPreload (posOf s) = true)) ∧
    (s.pf = true → t.pf = false →
      enginesTurn s = true ∧ (posOf s = .init ∨ atPreload (posOf s) = true ∨ posOf s = .stop .verify)) ∧
    (s.cfg = true → t.cfg = true)

/-- R27, R48: CODE changes, and BUSY falls, only at a `finish` step or a reset; RXDATA only at a `finish` or a reset.
-/
def Obligations.ResultsChangeOnlyAtFinish : Prop :=
  ∀ s t : State, step s = .next t → resetsNext s = false →
    (t.code ≠ s.code ∨ t.rxdata ≠ s.rxdata ∨ (s.busy = true ∧ t.busy = false)) →
    enginesTurn s = true ∧ posOf s = .finish ∧ t.busy = false ∧ t.seq = none

/-! ## The host's accesses (10_state.md R45 to R52, 60_exceptions.md R142) -/

/-- R46 to R52, R58, R65: what each register read returns, at any time; the read changes nothing but the value handed
to the host (the model's fields hostData, log 10, and draws, log 6, a BUF read while BUSY = 1 being a free value).
Writes to STATUS, RXDATA, FLAGS and LINES are ignored. -/
def Obligations.HostReadsReturnTheRegisters : Prop :=
  ∀ s : State,
    hostAccess (.read 0x000 4) s = .next { s with hostData := 0 } ∧
    hostAccess (.read 0x004 4) s = .next { s with hostData := s.code.setWidth 32 + (if s.busy then 0x100 else 0) } ∧
    hostAccess (.read 0x008 4) s = .next { s with hostData := s.rxdata.setWidth 32 } ∧
    hostAccess (.read 0x00C 4) s = .next { s with hostData := flagsWord s } ∧
    hostAccess (.read 0x010 4) s = .next { s with hostData := linesWord s } ∧
    (∀ i : BitVec 8,
      hostAccess (.read (0x400 + 4 * i.toNat) 4) s =
        .next (if s.busy then { s with hostData := Config.busyRead s.draws, draws := s.draws + 1 }
          else { s with hostData := (bufRead i s).setWidth 32 })) ∧
    ∀ w : Word, ∀ off ∈ [0x004, 0x008, 0x00C, 0x010], hostAccess (.write off 4 w) s = .next s

/-- R50, R51: the bits of the FLAGS and LINES words. -/
def Obligations.FlagAndLineViewsBitByBit : Prop :=
  ∀ s : State,
    (flagsWord s).getLsbD 0 = s.sif ∧ (flagsWord s).getLsbD 1 = s.pf ∧ (flagsWord s).getLsbD 2 = collision s ∧
    (flagsWord s).getLsbD 3 = s.oif ∧ (flagsWord s).extractLsb' 4 4 = s.cnt ∧ (flagsWord s).getLsbD 8 = s.cfg ∧
    (flagsWord s).extractLsb' 9 23 = 0 ∧
    (linesWord s).getLsbD 0 = sclLevel s ∧ (linesWord s).getLsbD 1 = sdaLevel s ∧ (linesWord s).getLsbD 2 = s.sclDir ∧
    (linesWord s).getLsbD 3 = s.sclPort ∧ (linesWord s).getLsbD 4 = s.sdaDir ∧ (linesWord s).getLsbD 5 = s.sdaPort ∧
    (linesWord s).extractLsb' 6 2 = 0 ∧ (linesWord s).extractLsb' 8 8 = s.sr ∧ (linesWord s).extractLsb' 16 16 = 0

/-- R46: a CMD write that is not refused latches the word, sets BUSY and puts the sequencer at the command's first
step; nothing else changes. The locals the sequencer then holds (JustIssued: firstLocals) are the model's choice, log
14, and no part of R46. -/
def Obligations.CommandWriteIssuesTheCommand : Prop :=
  ∀ (s : State) (w : Word) (i : Instr), s.busy = false → decode w = .ok i → (s.cfg = true ∨ i = .init) →
    ∃ t, hostAccess (.write 0x000 4 w) s = .next t ∧ JustIssued i t ∧ (∃ q, t.seq = some q ∧ q.curCmd = w) ∧
      t = { s with busy := true, seq := t.seq }

/-- R52, R55: while BUSY = 0 a BUF write stores bits [7:0] at its index, leaves every other byte and every other field
alone, and is read back zero-extended. That a read's value is put in hostData is log 10. -/
def Obligations.BufferWriteIsReadBack : Prop :=
  ∀ (s : State) (i : BitVec 8) (w : Word), s.busy = false →
    ∃ t, hostAccess (.write (0x400 + 4 * i.toNat) 4 w) s = .next t ∧ t = { s with buf := t.buf } ∧
      (∀ j, bufRead j t = if j = i then w.extractLsb' 0 8 else bufRead j s) ∧
      hostAccess (.read (0x400 + 4 * i.toNat) 4) t = .next { t with hostData := (w.extractLsb' 0 8).setWidth 32 }

/-- R142: the refused host accesses, complete: an access is refused exactly in the listed cases, with the reason of
one that applies; a BUF read while BUSY = 1 is none of them and returns some value, which this does not fix. Where two
cases apply (a reserved word while BUSY = 1, a reserved word while CFG = 0, a misaligned reserved offset) the reason
is the model's choice (log 11) and this statement does not fix it. -/
def Obligations.RefusedAccessesAreThoseListed : Prop :=
  ∀ (a : Access) (s : State),
    let off := match a with
      | .read off _ => off
      | .write off _ _ => off
    let width := match a with
      | .read _ width => width
      | .write _ width _ => width
    let badAccess : Prop := width ≠ 4 ∨ off % 4 ≠ 0
    let defined : Prop := off ∈ [0x000, 0x004, 0x008, 0x00C, 0x010] ∨ (0x400 ≤ off ∧ off < 0x800)
    let refusable (r : Refusal) : Prop :=
      match r with
      | .badAccess => badAccess
      | .reservedOffset => ¬defined
      | .commandWhileBusy => (∃ w, a = .write 0x000 width w) ∧ s.busy = true
      | .bufferWriteWhileBusy => (∃ w, a = .write off width w) ∧ 0x400 ≤ off ∧ s.busy = true
      | .reservedCommand => ∃ w, a = .write 0x000 width w ∧ ∀ i, decode w ≠ .ok i
      | .notInitialised => (∃ w, a = .write 0x000 width w ∧ decode w ≠ .ok .init) ∧ s.cfg = false
      | _ => False
    ((∃ r, refusable r) ↔ ∃ r, hostAccess a s = .refused r) ∧ (∀ r, hostAccess a s = .refused r → refusable r) ∧
      (s.busy = true → ∀ i : BitVec 8, ∃ v d,
        hostAccess (.read (0x400 + 4 * i.toNat) 4) s = .next { s with hostData := v, draws := d })

/-! ## Holds and hangs (60_exceptions.md) -/

/-- R43, R137: at a `WaitSclHigh` while the peer pulls the clock and the engine does not, the engine's turn changes
nothing, for every command whose position it is; a step of the system with an empty agenda changes nothing either
(that an empty agenda is the engine's turn is log 2). -/
def Obligations.HeldEngineDoesNotMove : Prop :=
  ∀ (i : Instr) (s : State) (q : Sequencer), s.seq = some q → atWait q.pos = true → posOk false i q s = true →
    WellFormed i → s.envSclLow = true → sclPulled s = false →
    exec i s = .next s ∧ (s.busy = true → decode q.curCmd = .ok i → s.agenda = [] → step s = .next s)

/-- R138: from every state that meets the invariant, no command but TRANSFER and READ_BYTE ever hangs on its own
clock, and no command ever stops otherwise: no fault of the sequencer and no refusal. -/
def Obligations.OnlyTransferAndReadByteCanHang : Prop :=
  ∀ (i : Instr) (s : State) (q : Sequencer), Inv s → s.seq = some q → decode q.curCmd = .ok i →
    match exec i s with
    | .next _ => True
    | .fault f => f = .hangOwnClock ∧ atWait q.pos = true ∧ sclPulled s = true ∧
        ((∃ n, i = .transfer n) ∨ ∃ more, i = .readByte more)
    | .refused _ => False

/-! ## The step -/

/-- R16, R61: at the engine's turn with BUSY = 1, a step runs the command the latched word decodes to: `step` is
`exec` of it on the state with the turn taken off the agenda. The agenda is the model's own, log 2. -/
def Obligations.StepRunsTheLatchedCommand : Prop :=
  ∀ (s : State) (q : Sequencer) (i : Instr), enginesTurn s = true → s.seq = some q → decode q.curCmd = .ok i →
    step s = exec i { s with agenda := s.agenda.tail }

/-- R61, R62, R63, R150: the other agents' steps (that the agenda orders them is log 2). With BUSY = 0 the engine's
turn changes nothing; a host event is one access; an environment event sets one of the peer's two inputs and nothing
else but the detector's flags. -/
def Obligations.StepRunsTheNamedAgent : Prop :=
  ∀ (s : State) (rest : List Event),
    (s.busy = false → s.agenda = [] → step s = .next s) ∧
    (s.busy = false → s.agenda = .engine :: rest → step s = .next { s with agenda := rest }) ∧
    (∀ a, s.agenda = .host a :: rest → step s = hostAccess a { s with agenda := rest }) ∧
    ∀ line low, s.agenda = .env line low :: rest →
      ∃ t, step s = .next t ∧ t.envSclLow = (if line = .scl then low else s.envSclLow) ∧
        t.envSdaLow = (if line = .sda then low else s.envSdaLow) ∧
        t = { s with agenda := rest, envSclLow := t.envSclLow, envSdaLow := t.envSdaLow, sif := t.sif, pf := t.pf,
                     wire := t.wire }

/-! ## Invariants and progress -/

/-- The invariant holds right after reset. Its clause on the list form of BUF is about the model's own representation,
log 5. -/
def Obligations.InvariantHoldsAtReset : Prop := Inv State.reset

/-- The invariant of the engine (R16, R20, R23, R80, R95, and the drivers at every (µ) step) is kept by every step of
every agent. Its clause on the list form of BUF is about the model's own representation, log 5. -/
def Obligations.EveryStepKeepsTheInvariant : Prop :=
  ∀ s t : State, Inv s → step s = .next t → Inv t

/-- The model's list of the bytes of BUF written since reset keeps its canonical form (indices below 256, strictly
rising) under every step, in every state. That BUF is held as such a list is the model's own representation, log 5;
the spec gives it 256 bytes (R55). -/
def Obligations.EveryStepKeepsTheBufferForm : Prop :=
  ∀ s t : State, Memory.wf s.buf = true → step s = .next t → Memory.wf t.buf = true

/-- R95, R80, R27: whatever the agents do after reset, in whatever order: whenever BUSY = 0 and INIT has run, SCL_DIR
= SDA_DIR = SDA_PORT = 1 and SR = 0xFF; the sequencer is empty exactly when BUSY = 0; the code is one of 0..6. The
agenda that orders the agents' steps is the model's own, log 2. -/
def Obligations.RunsFromResetRespectTheBoundary : Prop :=
  ∀ (agenda : List Event) (params : Params) (k : Nat) (t : State),
    Sys2Proof.core.run k { State.reset with agenda := agenda, params := params } = .next t →
    (t.busy = false → t.cfg = true → t.sclDir = true ∧ t.sdaDir = true ∧ t.sdaPort = true ∧ t.sr = 0xFF) ∧
      (t.busy = false ↔ t.seq = none) ∧ t.code.toNat ≤ 6

/-- R163, R166: each step a command takes leaves it fewer steps to go; a step that does not is a hold, which changes
nothing. -/
def Obligations.EveryCommandStepMakesProgress : Prop :=
  ∀ (i : Instr) (s t : State) (q : Sequencer), Inv s → s.seq = some q → decode q.curCmd = .ok i →
    exec i s = .next t → t = s ∨ commandLeft i t < commandLeft i s

/-- R132, R163: with the clock not held by the peer, a step of a command at any of its positions answers a next state
with fewer steps to go; TRANSFER and READ_BYTE where they were issued with the clock driven low (R159). -/
def Obligations.UnheldCommandStepsAnswer : Prop :=
  ∀ (i : Instr) (s : State) (q : Sequencer), WellFormed i → s.seq = some q → posOk true i q s = true →
    s.envSclLow = false → ∃ t, exec i s = .next t ∧ commandLeft i t < commandLeft i s

/-- R132, R159, R163: every issued command finishes: from its issue at a boundary, with the clock not held by the peer
(and driven low for TRANSFER and READ_BYTE), it takes at most the steps counted and ends with BUSY = 0 and a code
0..6. -/
def Obligations.EveryIssuedCommandFinishes : Prop :=
  ∀ (i : Instr) (s : State), WellFormed i → JustIssued i s → AtBoundary s → s.envSclLow = false →
    ((∃ n, i = .transfer n) ∨ (∃ more, i = .readByte more) → s.sclPort = false) →
    ∃ k t, k ≤ commandLeft i s ∧ execSteps i k s = .next t ∧ t.busy = false ∧ t.seq = none ∧ AtBoundary t ∧
      t.code.toNat ≤ 6

/-! ## Register layer (43_register_layer.md) -/

/-- R126, R127, R128, R130: setBits, clearBits and maskedSet: when readRegister returns a status other than Ok they
return that status in the state it left, and no write is issued; otherwise `reg` and the new value (the source's
formula of the byte read, its worked example among them) go to BUF[0] and BUF[1], then WRITE_TXN of the two with a
stop is issued and its code returned. The `bound` on the host's polls is the model's own (log 23); the statement holds
for every bound. -/
def Obligations.RegisterUpdatesFollowTheFormulas : Prop :=
  maskedSetValue 0b00000011 0b00000001 0b11111111 = 0b11111101 ∧
  (∀ (mask bits v : Byte) (k : Nat), k < 8 →
    (setBitsValue mask v).getLsbD k = (v.getLsbD k || mask.getLsbD k) ∧
    (clearBitsValue mask v).getLsbD k = (v.getLsbD k && !mask.getLsbD k) ∧
    (maskedSetValue mask bits v).getLsbD k = (v.getLsbD k && !mask.getLsbD k || bits.getLsbD k)) ∧
  ∀ (bound : Nat) (addr : BitVec 7) (reg mask bits b code : Byte) (s t : State),
    readRegister bound addr reg s = .done (b, code) t →
    ∀ (result : HostRun Byte) (value : Byte),
      (result = setBits bound addr reg mask s ∧ value = setBitsValue mask b) ∨
        (result = clearBits bound addr reg mask s ∧ value = clearBitsValue mask b) ∨
        (result = maskedSet bound addr reg mask bits s ∧ value = maskedSetValue mask bits b) →
      (code ≠ 0 → result = .done code t) ∧
      (code = 0 → ∃ u, bufRead 0 u = reg ∧ bufRead 1 u = value ∧
        (∀ j, j ≠ 0 → j ≠ 1 → bufRead j u = bufRead j t) ∧ u = { t with buf := u.buf, hostData := u.hostData } ∧
        result = (hostIssue bound (.writeTxn addr true 2) u).andThen fun _ v => hostGetCode v)

/-- R124, R125 (a): with no device on a free bus, readRegister's first phase is not acknowledged: it returns SlaveNack
and leaves the bus held, having written `reg` to BUF[0] and nothing else of BUF (the second phase is skipped). The
bound on the host's polls is log 23's. -/
def Obligations.ReadRegisterWithoutDevice : Prop :=
  ∀ (bound : Nat) (addr : BitVec 7) (reg : Byte) (s : State), 73 ≤ bound → s.busy = false → AtBoundary s → PeerQuiet s →
    s.sif = false → s.pf = false → s.agenda = [] →
    ∃ b t, readRegister bound addr reg s = .done (b, 6) t ∧ t.sclPort = false ∧ t.busy = false ∧
      ∀ j, bufRead j t = if j = 0 then reg else bufRead j s
end

