-- ==== Sys2Proof/Laws/State.lean ====
section
/-! SUPPORT. One lemma per field per update of State, each true by rfl and tagged simp, so that no proof unfolds a record
update; and what `micro` and `detect` do to each field. -/

namespace Sys2Proof.Machine

open Sys2Proof

/-! ### setSclPort -/

@[simp] theorem setSclPort_cfg (v : Bool) (s : State) : (setSclPort v s).cfg = s.cfg := rfl
@[simp] theorem setSclPort_sclDir (v : Bool) (s : State) : (setSclPort v s).sclDir = s.sclDir := rfl
@[simp] theorem setSclPort_sclPort (v : Bool) (s : State) : (setSclPort v s).sclPort = v := rfl
@[simp] theorem setSclPort_sdaDir (v : Bool) (s : State) : (setSclPort v s).sdaDir = s.sdaDir := rfl
@[simp] theorem setSclPort_sdaPort (v : Bool) (s : State) : (setSclPort v s).sdaPort = s.sdaPort := rfl
@[simp] theorem setSclPort_sr (v : Bool) (s : State) : (setSclPort v s).sr = s.sr := rfl
@[simp] theorem setSclPort_latch (v : Bool) (s : State) : (setSclPort v s).latch = s.latch := rfl
@[simp] theorem setSclPort_cnt (v : Bool) (s : State) : (setSclPort v s).cnt = s.cnt := rfl
@[simp] theorem setSclPort_oif (v : Bool) (s : State) : (setSclPort v s).oif = s.oif := rfl
@[simp] theorem setSclPort_sif (v : Bool) (s : State) : (setSclPort v s).sif = s.sif := rfl
@[simp] theorem setSclPort_pf (v : Bool) (s : State) : (setSclPort v s).pf = s.pf := rfl
@[simp] theorem setSclPort_busy (v : Bool) (s : State) : (setSclPort v s).busy = s.busy := rfl
@[simp] theorem setSclPort_code (v : Bool) (s : State) : (setSclPort v s).code = s.code := rfl
@[simp] theorem setSclPort_rxdata (v : Bool) (s : State) : (setSclPort v s).rxdata = s.rxdata := rfl
@[simp] theorem setSclPort_seq (v : Bool) (s : State) : (setSclPort v s).seq = s.seq := rfl
@[simp] theorem setSclPort_buf (v : Bool) (s : State) : (setSclPort v s).buf = s.buf := rfl
@[simp] theorem setSclPort_envSclLow (v : Bool) (s : State) : (setSclPort v s).envSclLow = s.envSclLow := rfl
@[simp] theorem setSclPort_envSdaLow (v : Bool) (s : State) : (setSclPort v s).envSdaLow = s.envSdaLow := rfl
@[simp] theorem setSclPort_params (v : Bool) (s : State) : (setSclPort v s).params = s.params := rfl
@[simp] theorem setSclPort_hostData (v : Bool) (s : State) : (setSclPort v s).hostData = s.hostData := rfl
@[simp] theorem setSclPort_draws (v : Bool) (s : State) : (setSclPort v s).draws = s.draws := rfl
@[simp] theorem setSclPort_epoch (v : Bool) (s : State) : (setSclPort v s).epoch = s.epoch := rfl
@[simp] theorem setSclPort_agenda (v : Bool) (s : State) : (setSclPort v s).agenda = s.agenda := rfl
@[simp] theorem setSclPort_wire (v : Bool) (s : State) : (setSclPort v s).wire = s.wire := rfl

/-! ### setSdaPort -/

@[simp] theorem setSdaPort_cfg (v : Bool) (s : State) : (setSdaPort v s).cfg = s.cfg := rfl
@[simp] theorem setSdaPort_sclDir (v : Bool) (s : State) : (setSdaPort v s).sclDir = s.sclDir := rfl
@[simp] theorem setSdaPort_sclPort (v : Bool) (s : State) : (setSdaPort v s).sclPort = s.sclPort := rfl
@[simp] theorem setSdaPort_sdaDir (v : Bool) (s : State) : (setSdaPort v s).sdaDir = s.sdaDir := rfl
@[simp] theorem setSdaPort_sdaPort (v : Bool) (s : State) : (setSdaPort v s).sdaPort = v := rfl
@[simp] theorem setSdaPort_sr (v : Bool) (s : State) : (setSdaPort v s).sr = s.sr := rfl
@[simp] theorem setSdaPort_latch (v : Bool) (s : State) : (setSdaPort v s).latch = s.latch := rfl
@[simp] theorem setSdaPort_cnt (v : Bool) (s : State) : (setSdaPort v s).cnt = s.cnt := rfl
@[simp] theorem setSdaPort_oif (v : Bool) (s : State) : (setSdaPort v s).oif = s.oif := rfl
@[simp] theorem setSdaPort_sif (v : Bool) (s : State) : (setSdaPort v s).sif = s.sif := rfl
@[simp] theorem setSdaPort_pf (v : Bool) (s : State) : (setSdaPort v s).pf = s.pf := rfl
@[simp] theorem setSdaPort_busy (v : Bool) (s : State) : (setSdaPort v s).busy = s.busy := rfl
@[simp] theorem setSdaPort_code (v : Bool) (s : State) : (setSdaPort v s).code = s.code := rfl
@[simp] theorem setSdaPort_rxdata (v : Bool) (s : State) : (setSdaPort v s).rxdata = s.rxdata := rfl
@[simp] theorem setSdaPort_seq (v : Bool) (s : State) : (setSdaPort v s).seq = s.seq := rfl
@[simp] theorem setSdaPort_buf (v : Bool) (s : State) : (setSdaPort v s).buf = s.buf := rfl
@[simp] theorem setSdaPort_envSclLow (v : Bool) (s : State) : (setSdaPort v s).envSclLow = s.envSclLow := rfl
@[simp] theorem setSdaPort_envSdaLow (v : Bool) (s : State) : (setSdaPort v s).envSdaLow = s.envSdaLow := rfl
@[simp] theorem setSdaPort_params (v : Bool) (s : State) : (setSdaPort v s).params = s.params := rfl
@[simp] theorem setSdaPort_hostData (v : Bool) (s : State) : (setSdaPort v s).hostData = s.hostData := rfl
@[simp] theorem setSdaPort_draws (v : Bool) (s : State) : (setSdaPort v s).draws = s.draws := rfl
@[simp] theorem setSdaPort_epoch (v : Bool) (s : State) : (setSdaPort v s).epoch = s.epoch := rfl
@[simp] theorem setSdaPort_agenda (v : Bool) (s : State) : (setSdaPort v s).agenda = s.agenda := rfl
@[simp] theorem setSdaPort_wire (v : Bool) (s : State) : (setSdaPort v s).wire = s.wire := rfl

/-! ### setSclDir -/

@[simp] theorem setSclDir_cfg (d : Bool) (s : State) : (setSclDir d s).cfg = s.cfg := rfl
@[simp] theorem setSclDir_sclDir (d : Bool) (s : State) : (setSclDir d s).sclDir = d := rfl
@[simp] theorem setSclDir_sclPort (d : Bool) (s : State) : (setSclDir d s).sclPort = s.sclPort := rfl
@[simp] theorem setSclDir_sdaDir (d : Bool) (s : State) : (setSclDir d s).sdaDir = s.sdaDir := rfl
@[simp] theorem setSclDir_sdaPort (d : Bool) (s : State) : (setSclDir d s).sdaPort = s.sdaPort := rfl
@[simp] theorem setSclDir_sr (d : Bool) (s : State) : (setSclDir d s).sr = s.sr := rfl
@[simp] theorem setSclDir_latch (d : Bool) (s : State) : (setSclDir d s).latch = s.latch := rfl
@[simp] theorem setSclDir_cnt (d : Bool) (s : State) : (setSclDir d s).cnt = s.cnt := rfl
@[simp] theorem setSclDir_oif (d : Bool) (s : State) : (setSclDir d s).oif = s.oif := rfl
@[simp] theorem setSclDir_sif (d : Bool) (s : State) : (setSclDir d s).sif = s.sif := rfl
@[simp] theorem setSclDir_pf (d : Bool) (s : State) : (setSclDir d s).pf = s.pf := rfl
@[simp] theorem setSclDir_busy (d : Bool) (s : State) : (setSclDir d s).busy = s.busy := rfl
@[simp] theorem setSclDir_code (d : Bool) (s : State) : (setSclDir d s).code = s.code := rfl
@[simp] theorem setSclDir_rxdata (d : Bool) (s : State) : (setSclDir d s).rxdata = s.rxdata := rfl
@[simp] theorem setSclDir_seq (d : Bool) (s : State) : (setSclDir d s).seq = s.seq := rfl
@[simp] theorem setSclDir_buf (d : Bool) (s : State) : (setSclDir d s).buf = s.buf := rfl
@[simp] theorem setSclDir_envSclLow (d : Bool) (s : State) : (setSclDir d s).envSclLow = s.envSclLow := rfl
@[simp] theorem setSclDir_envSdaLow (d : Bool) (s : State) : (setSclDir d s).envSdaLow = s.envSdaLow := rfl
@[simp] theorem setSclDir_params (d : Bool) (s : State) : (setSclDir d s).params = s.params := rfl
@[simp] theorem setSclDir_hostData (d : Bool) (s : State) : (setSclDir d s).hostData = s.hostData := rfl
@[simp] theorem setSclDir_draws (d : Bool) (s : State) : (setSclDir d s).draws = s.draws := rfl
@[simp] theorem setSclDir_epoch (d : Bool) (s : State) : (setSclDir d s).epoch = s.epoch := rfl
@[simp] theorem setSclDir_agenda (d : Bool) (s : State) : (setSclDir d s).agenda = s.agenda := rfl
@[simp] theorem setSclDir_wire (d : Bool) (s : State) : (setSclDir d s).wire = s.wire := rfl

/-! ### setSdaDir -/

@[simp] theorem setSdaDir_cfg (d : Bool) (s : State) : (setSdaDir d s).cfg = s.cfg := rfl
@[simp] theorem setSdaDir_sclDir (d : Bool) (s : State) : (setSdaDir d s).sclDir = s.sclDir := rfl
@[simp] theorem setSdaDir_sclPort (d : Bool) (s : State) : (setSdaDir d s).sclPort = s.sclPort := rfl
@[simp] theorem setSdaDir_sdaDir (d : Bool) (s : State) : (setSdaDir d s).sdaDir = d := rfl
@[simp] theorem setSdaDir_sdaPort (d : Bool) (s : State) : (setSdaDir d s).sdaPort = s.sdaPort := rfl
@[simp] theorem setSdaDir_sr (d : Bool) (s : State) : (setSdaDir d s).sr = s.sr := rfl
@[simp] theorem setSdaDir_latch (d : Bool) (s : State) : (setSdaDir d s).latch = s.latch := rfl
@[simp] theorem setSdaDir_cnt (d : Bool) (s : State) : (setSdaDir d s).cnt = s.cnt := rfl
@[simp] theorem setSdaDir_oif (d : Bool) (s : State) : (setSdaDir d s).oif = s.oif := rfl
@[simp] theorem setSdaDir_sif (d : Bool) (s : State) : (setSdaDir d s).sif = s.sif := rfl
@[simp] theorem setSdaDir_pf (d : Bool) (s : State) : (setSdaDir d s).pf = s.pf := rfl
@[simp] theorem setSdaDir_busy (d : Bool) (s : State) : (setSdaDir d s).busy = s.busy := rfl
@[simp] theorem setSdaDir_code (d : Bool) (s : State) : (setSdaDir d s).code = s.code := rfl
@[simp] theorem setSdaDir_rxdata (d : Bool) (s : State) : (setSdaDir d s).rxdata = s.rxdata := rfl
@[simp] theorem setSdaDir_seq (d : Bool) (s : State) : (setSdaDir d s).seq = s.seq := rfl
@[simp] theorem setSdaDir_buf (d : Bool) (s : State) : (setSdaDir d s).buf = s.buf := rfl
@[simp] theorem setSdaDir_envSclLow (d : Bool) (s : State) : (setSdaDir d s).envSclLow = s.envSclLow := rfl
@[simp] theorem setSdaDir_envSdaLow (d : Bool) (s : State) : (setSdaDir d s).envSdaLow = s.envSdaLow := rfl
@[simp] theorem setSdaDir_params (d : Bool) (s : State) : (setSdaDir d s).params = s.params := rfl
@[simp] theorem setSdaDir_hostData (d : Bool) (s : State) : (setSdaDir d s).hostData = s.hostData := rfl
@[simp] theorem setSdaDir_draws (d : Bool) (s : State) : (setSdaDir d s).draws = s.draws := rfl
@[simp] theorem setSdaDir_epoch (d : Bool) (s : State) : (setSdaDir d s).epoch = s.epoch := rfl
@[simp] theorem setSdaDir_agenda (d : Bool) (s : State) : (setSdaDir d s).agenda = s.agenda := rfl
@[simp] theorem setSdaDir_wire (d : Bool) (s : State) : (setSdaDir d s).wire = s.wire := rfl

/-! ### loadSR -/

@[simp] theorem loadSR_cfg (v : Byte) (s : State) : (loadSR v s).cfg = s.cfg := rfl
@[simp] theorem loadSR_sclDir (v : Byte) (s : State) : (loadSR v s).sclDir = s.sclDir := rfl
@[simp] theorem loadSR_sclPort (v : Byte) (s : State) : (loadSR v s).sclPort = s.sclPort := rfl
@[simp] theorem loadSR_sdaDir (v : Byte) (s : State) : (loadSR v s).sdaDir = s.sdaDir := rfl
@[simp] theorem loadSR_sdaPort (v : Byte) (s : State) : (loadSR v s).sdaPort = s.sdaPort := rfl
@[simp] theorem loadSR_sr (v : Byte) (s : State) : (loadSR v s).sr = v := rfl
@[simp] theorem loadSR_latch (v : Byte) (s : State) : (loadSR v s).latch = s.latch := rfl
@[simp] theorem loadSR_cnt (v : Byte) (s : State) : (loadSR v s).cnt = s.cnt := rfl
@[simp] theorem loadSR_oif (v : Byte) (s : State) : (loadSR v s).oif = s.oif := rfl
@[simp] theorem loadSR_sif (v : Byte) (s : State) : (loadSR v s).sif = s.sif := rfl
@[simp] theorem loadSR_pf (v : Byte) (s : State) : (loadSR v s).pf = s.pf := rfl
@[simp] theorem loadSR_busy (v : Byte) (s : State) : (loadSR v s).busy = s.busy := rfl
@[simp] theorem loadSR_code (v : Byte) (s : State) : (loadSR v s).code = s.code := rfl
@[simp] theorem loadSR_rxdata (v : Byte) (s : State) : (loadSR v s).rxdata = s.rxdata := rfl
@[simp] theorem loadSR_seq (v : Byte) (s : State) : (loadSR v s).seq = s.seq := rfl
@[simp] theorem loadSR_buf (v : Byte) (s : State) : (loadSR v s).buf = s.buf := rfl
@[simp] theorem loadSR_envSclLow (v : Byte) (s : State) : (loadSR v s).envSclLow = s.envSclLow := rfl
@[simp] theorem loadSR_envSdaLow (v : Byte) (s : State) : (loadSR v s).envSdaLow = s.envSdaLow := rfl
@[simp] theorem loadSR_params (v : Byte) (s : State) : (loadSR v s).params = s.params := rfl
@[simp] theorem loadSR_hostData (v : Byte) (s : State) : (loadSR v s).hostData = s.hostData := rfl
@[simp] theorem loadSR_draws (v : Byte) (s : State) : (loadSR v s).draws = s.draws := rfl
@[simp] theorem loadSR_epoch (v : Byte) (s : State) : (loadSR v s).epoch = s.epoch := rfl
@[simp] theorem loadSR_agenda (v : Byte) (s : State) : (loadSR v s).agenda = s.agenda := rfl
@[simp] theorem loadSR_wire (v : Byte) (s : State) : (loadSR v s).wire = s.wire := rfl

/-! ### toggleScl -/

@[simp] theorem toggleScl_cfg (s : State) : (toggleScl s).cfg = s.cfg := rfl
@[simp] theorem toggleScl_sclDir (s : State) : (toggleScl s).sclDir = s.sclDir := rfl
@[simp] theorem toggleScl_sclPort (s : State) : (toggleScl s).sclPort = !s.sclPort := rfl
@[simp] theorem toggleScl_sdaDir (s : State) : (toggleScl s).sdaDir = s.sdaDir := rfl
@[simp] theorem toggleScl_sdaPort (s : State) : (toggleScl s).sdaPort = s.sdaPort := rfl
@[simp] theorem toggleScl_sr (s : State) : (toggleScl s).sr = s.sr := rfl
@[simp] theorem toggleScl_latch (s : State) : (toggleScl s).latch = s.latch := rfl
@[simp] theorem toggleScl_cnt (s : State) : (toggleScl s).cnt = s.cnt := rfl
@[simp] theorem toggleScl_oif (s : State) : (toggleScl s).oif = s.oif := rfl
@[simp] theorem toggleScl_sif (s : State) : (toggleScl s).sif = s.sif := rfl
@[simp] theorem toggleScl_pf (s : State) : (toggleScl s).pf = s.pf := rfl
@[simp] theorem toggleScl_busy (s : State) : (toggleScl s).busy = s.busy := rfl
@[simp] theorem toggleScl_code (s : State) : (toggleScl s).code = s.code := rfl
@[simp] theorem toggleScl_rxdata (s : State) : (toggleScl s).rxdata = s.rxdata := rfl
@[simp] theorem toggleScl_seq (s : State) : (toggleScl s).seq = s.seq := rfl
@[simp] theorem toggleScl_buf (s : State) : (toggleScl s).buf = s.buf := rfl
@[simp] theorem toggleScl_envSclLow (s : State) : (toggleScl s).envSclLow = s.envSclLow := rfl
@[simp] theorem toggleScl_envSdaLow (s : State) : (toggleScl s).envSdaLow = s.envSdaLow := rfl
@[simp] theorem toggleScl_params (s : State) : (toggleScl s).params = s.params := rfl
@[simp] theorem toggleScl_hostData (s : State) : (toggleScl s).hostData = s.hostData := rfl
@[simp] theorem toggleScl_draws (s : State) : (toggleScl s).draws = s.draws := rfl
@[simp] theorem toggleScl_epoch (s : State) : (toggleScl s).epoch = s.epoch := rfl
@[simp] theorem toggleScl_agenda (s : State) : (toggleScl s).agenda = s.agenda := rfl
@[simp] theorem toggleScl_wire (s : State) : (toggleScl s).wire = s.wire := rfl

/-! ### delay -/

@[simp] theorem delay_cfg (t : Nat) (s : State) : (delay t s).cfg = s.cfg := rfl
@[simp] theorem delay_sclDir (t : Nat) (s : State) : (delay t s).sclDir = s.sclDir := rfl
@[simp] theorem delay_sclPort (t : Nat) (s : State) : (delay t s).sclPort = s.sclPort := rfl
@[simp] theorem delay_sdaDir (t : Nat) (s : State) : (delay t s).sdaDir = s.sdaDir := rfl
@[simp] theorem delay_sdaPort (t : Nat) (s : State) : (delay t s).sdaPort = s.sdaPort := rfl
@[simp] theorem delay_sr (t : Nat) (s : State) : (delay t s).sr = s.sr := rfl
@[simp] theorem delay_latch (t : Nat) (s : State) : (delay t s).latch = s.latch := rfl
@[simp] theorem delay_cnt (t : Nat) (s : State) : (delay t s).cnt = s.cnt := rfl
@[simp] theorem delay_oif (t : Nat) (s : State) : (delay t s).oif = s.oif := rfl
@[simp] theorem delay_sif (t : Nat) (s : State) : (delay t s).sif = s.sif := rfl
@[simp] theorem delay_pf (t : Nat) (s : State) : (delay t s).pf = s.pf := rfl
@[simp] theorem delay_busy (t : Nat) (s : State) : (delay t s).busy = s.busy := rfl
@[simp] theorem delay_code (t : Nat) (s : State) : (delay t s).code = s.code := rfl
@[simp] theorem delay_rxdata (t : Nat) (s : State) : (delay t s).rxdata = s.rxdata := rfl
@[simp] theorem delay_seq (t : Nat) (s : State) : (delay t s).seq = s.seq := rfl
@[simp] theorem delay_buf (t : Nat) (s : State) : (delay t s).buf = s.buf := rfl
@[simp] theorem delay_envSclLow (t : Nat) (s : State) : (delay t s).envSclLow = s.envSclLow := rfl
@[simp] theorem delay_envSdaLow (t : Nat) (s : State) : (delay t s).envSdaLow = s.envSdaLow := rfl
@[simp] theorem delay_params (t : Nat) (s : State) : (delay t s).params = s.params := rfl
@[simp] theorem delay_hostData (t : Nat) (s : State) : (delay t s).hostData = s.hostData := rfl
@[simp] theorem delay_draws (t : Nat) (s : State) : (delay t s).draws = s.draws := rfl
@[simp] theorem delay_epoch (t : Nat) (s : State) : (delay t s).epoch = s.epoch := rfl
@[simp] theorem delay_agenda (t : Nat) (s : State) : (delay t s).agenda = s.agenda := rfl
@[simp] theorem delay_wire (t : Nat) (s : State) : (delay t s).wire = s.wire := rfl

/-! ### bufWrite -/

@[simp] theorem bufWrite_cfg (i : BitVec 8) (v : Byte) (s : State) : (bufWrite i v s).cfg = s.cfg := rfl
@[simp] theorem bufWrite_sclDir (i : BitVec 8) (v : Byte) (s : State) : (bufWrite i v s).sclDir = s.sclDir := rfl
@[simp] theorem bufWrite_sclPort (i : BitVec 8) (v : Byte) (s : State) : (bufWrite i v s).sclPort = s.sclPort := rfl
@[simp] theorem bufWrite_sdaDir (i : BitVec 8) (v : Byte) (s : State) : (bufWrite i v s).sdaDir = s.sdaDir := rfl
@[simp] theorem bufWrite_sdaPort (i : BitVec 8) (v : Byte) (s : State) : (bufWrite i v s).sdaPort = s.sdaPort := rfl
@[simp] theorem bufWrite_sr (i : BitVec 8) (v : Byte) (s : State) : (bufWrite i v s).sr = s.sr := rfl
@[simp] theorem bufWrite_latch (i : BitVec 8) (v : Byte) (s : State) : (bufWrite i v s).latch = s.latch := rfl
@[simp] theorem bufWrite_cnt (i : BitVec 8) (v : Byte) (s : State) : (bufWrite i v s).cnt = s.cnt := rfl
@[simp] theorem bufWrite_oif (i : BitVec 8) (v : Byte) (s : State) : (bufWrite i v s).oif = s.oif := rfl
@[simp] theorem bufWrite_sif (i : BitVec 8) (v : Byte) (s : State) : (bufWrite i v s).sif = s.sif := rfl
@[simp] theorem bufWrite_pf (i : BitVec 8) (v : Byte) (s : State) : (bufWrite i v s).pf = s.pf := rfl
@[simp] theorem bufWrite_busy (i : BitVec 8) (v : Byte) (s : State) : (bufWrite i v s).busy = s.busy := rfl
@[simp] theorem bufWrite_code (i : BitVec 8) (v : Byte) (s : State) : (bufWrite i v s).code = s.code := rfl
@[simp] theorem bufWrite_rxdata (i : BitVec 8) (v : Byte) (s : State) : (bufWrite i v s).rxdata = s.rxdata := rfl
@[simp] theorem bufWrite_seq (i : BitVec 8) (v : Byte) (s : State) : (bufWrite i v s).seq = s.seq := rfl
@[simp] theorem bufWrite_buf (i : BitVec 8) (v : Byte) (s : State) : (bufWrite i v s).buf = bufInsert s.buf i.toNat v := rfl
@[simp] theorem bufWrite_envSclLow (i : BitVec 8) (v : Byte) (s : State) : (bufWrite i v s).envSclLow = s.envSclLow := rfl
@[simp] theorem bufWrite_envSdaLow (i : BitVec 8) (v : Byte) (s : State) : (bufWrite i v s).envSdaLow = s.envSdaLow := rfl
@[simp] theorem bufWrite_params (i : BitVec 8) (v : Byte) (s : State) : (bufWrite i v s).params = s.params := rfl
@[simp] theorem bufWrite_hostData (i : BitVec 8) (v : Byte) (s : State) : (bufWrite i v s).hostData = s.hostData := rfl
@[simp] theorem bufWrite_draws (i : BitVec 8) (v : Byte) (s : State) : (bufWrite i v s).draws = s.draws := rfl
@[simp] theorem bufWrite_epoch (i : BitVec 8) (v : Byte) (s : State) : (bufWrite i v s).epoch = s.epoch := rfl
@[simp] theorem bufWrite_agenda (i : BitVec 8) (v : Byte) (s : State) : (bufWrite i v s).agenda = s.agenda := rfl
@[simp] theorem bufWrite_wire (i : BitVec 8) (v : Byte) (s : State) : (bufWrite i v s).wire = s.wire := rfl

/-! ### preloadFlags -/

@[simp] theorem preloadFlags_cfg (n : BitVec 4) (s : State) : (preloadFlags n s).cfg = s.cfg := rfl
@[simp] theorem preloadFlags_sclDir (n : BitVec 4) (s : State) : (preloadFlags n s).sclDir = s.sclDir := rfl
@[simp] theorem preloadFlags_sclPort (n : BitVec 4) (s : State) : (preloadFlags n s).sclPort = s.sclPort := rfl
@[simp] theorem preloadFlags_sdaDir (n : BitVec 4) (s : State) : (preloadFlags n s).sdaDir = s.sdaDir := rfl
@[simp] theorem preloadFlags_sdaPort (n : BitVec 4) (s : State) : (preloadFlags n s).sdaPort = s.sdaPort := rfl
@[simp] theorem preloadFlags_sr (n : BitVec 4) (s : State) : (preloadFlags n s).sr = s.sr := rfl
@[simp] theorem preloadFlags_latch (n : BitVec 4) (s : State) : (preloadFlags n s).latch = s.latch := rfl
@[simp] theorem preloadFlags_cnt (n : BitVec 4) (s : State) : (preloadFlags n s).cnt = n := rfl
@[simp] theorem preloadFlags_oif (n : BitVec 4) (s : State) : (preloadFlags n s).oif = false := rfl
@[simp] theorem preloadFlags_sif (n : BitVec 4) (s : State) : (preloadFlags n s).sif = false := rfl
@[simp] theorem preloadFlags_pf (n : BitVec 4) (s : State) : (preloadFlags n s).pf = false := rfl
@[simp] theorem preloadFlags_busy (n : BitVec 4) (s : State) : (preloadFlags n s).busy = s.busy := rfl
@[simp] theorem preloadFlags_code (n : BitVec 4) (s : State) : (preloadFlags n s).code = s.code := rfl
@[simp] theorem preloadFlags_rxdata (n : BitVec 4) (s : State) : (preloadFlags n s).rxdata = s.rxdata := rfl
@[simp] theorem preloadFlags_seq (n : BitVec 4) (s : State) : (preloadFlags n s).seq = s.seq := rfl
@[simp] theorem preloadFlags_buf (n : BitVec 4) (s : State) : (preloadFlags n s).buf = s.buf := rfl
@[simp] theorem preloadFlags_envSclLow (n : BitVec 4) (s : State) : (preloadFlags n s).envSclLow = s.envSclLow := rfl
@[simp] theorem preloadFlags_envSdaLow (n : BitVec 4) (s : State) : (preloadFlags n s).envSdaLow = s.envSdaLow := rfl
@[simp] theorem preloadFlags_params (n : BitVec 4) (s : State) : (preloadFlags n s).params = s.params := rfl
@[simp] theorem preloadFlags_hostData (n : BitVec 4) (s : State) : (preloadFlags n s).hostData = s.hostData := rfl
@[simp] theorem preloadFlags_draws (n : BitVec 4) (s : State) : (preloadFlags n s).draws = s.draws := rfl
@[simp] theorem preloadFlags_epoch (n : BitVec 4) (s : State) : (preloadFlags n s).epoch = s.epoch := rfl
@[simp] theorem preloadFlags_agenda (n : BitVec 4) (s : State) : (preloadFlags n s).agenda = s.agenda := rfl
@[simp] theorem preloadFlags_wire (n : BitVec 4) (s : State) : (preloadFlags n s).wire = s.wire := rfl

/-! ### initFlags -/

@[simp] theorem initFlags_cfg (s : State) : (initFlags s).cfg = true := rfl
@[simp] theorem initFlags_sclDir (s : State) : (initFlags s).sclDir = s.sclDir := rfl
@[simp] theorem initFlags_sclPort (s : State) : (initFlags s).sclPort = s.sclPort := rfl
@[simp] theorem initFlags_sdaDir (s : State) : (initFlags s).sdaDir = s.sdaDir := rfl
@[simp] theorem initFlags_sdaPort (s : State) : (initFlags s).sdaPort = s.sdaPort := rfl
@[simp] theorem initFlags_sr (s : State) : (initFlags s).sr = s.sr := rfl
@[simp] theorem initFlags_latch (s : State) : (initFlags s).latch = s.latch := rfl
@[simp] theorem initFlags_cnt (s : State) : (initFlags s).cnt = 0 := rfl
@[simp] theorem initFlags_oif (s : State) : (initFlags s).oif = false := rfl
@[simp] theorem initFlags_sif (s : State) : (initFlags s).sif = false := rfl
@[simp] theorem initFlags_pf (s : State) : (initFlags s).pf = false := rfl
@[simp] theorem initFlags_busy (s : State) : (initFlags s).busy = s.busy := rfl
@[simp] theorem initFlags_code (s : State) : (initFlags s).code = s.code := rfl
@[simp] theorem initFlags_rxdata (s : State) : (initFlags s).rxdata = s.rxdata := rfl
@[simp] theorem initFlags_seq (s : State) : (initFlags s).seq = s.seq := rfl
@[simp] theorem initFlags_buf (s : State) : (initFlags s).buf = s.buf := rfl
@[simp] theorem initFlags_envSclLow (s : State) : (initFlags s).envSclLow = s.envSclLow := rfl
@[simp] theorem initFlags_envSdaLow (s : State) : (initFlags s).envSdaLow = s.envSdaLow := rfl
@[simp] theorem initFlags_params (s : State) : (initFlags s).params = s.params := rfl
@[simp] theorem initFlags_hostData (s : State) : (initFlags s).hostData = s.hostData := rfl
@[simp] theorem initFlags_draws (s : State) : (initFlags s).draws = s.draws := rfl
@[simp] theorem initFlags_epoch (s : State) : (initFlags s).epoch = s.epoch := rfl
@[simp] theorem initFlags_agenda (s : State) : (initFlags s).agenda = s.agenda := rfl
@[simp] theorem initFlags_wire (s : State) : (initFlags s).wire = s.wire := rfl

/-! ### clearStopFlag -/

@[simp] theorem clearStopFlag_cfg (s : State) : (clearStopFlag s).cfg = s.cfg := rfl
@[simp] theorem clearStopFlag_sclDir (s : State) : (clearStopFlag s).sclDir = s.sclDir := rfl
@[simp] theorem clearStopFlag_sclPort (s : State) : (clearStopFlag s).sclPort = s.sclPort := rfl
@[simp] theorem clearStopFlag_sdaDir (s : State) : (clearStopFlag s).sdaDir = s.sdaDir := rfl
@[simp] theorem clearStopFlag_sdaPort (s : State) : (clearStopFlag s).sdaPort = s.sdaPort := rfl
@[simp] theorem clearStopFlag_sr (s : State) : (clearStopFlag s).sr = s.sr := rfl
@[simp] theorem clearStopFlag_latch (s : State) : (clearStopFlag s).latch = s.latch := rfl
@[simp] theorem clearStopFlag_cnt (s : State) : (clearStopFlag s).cnt = s.cnt := rfl
@[simp] theorem clearStopFlag_oif (s : State) : (clearStopFlag s).oif = s.oif := rfl
@[simp] theorem clearStopFlag_sif (s : State) : (clearStopFlag s).sif = s.sif := rfl
@[simp] theorem clearStopFlag_pf (s : State) : (clearStopFlag s).pf = false := rfl
@[simp] theorem clearStopFlag_busy (s : State) : (clearStopFlag s).busy = s.busy := rfl
@[simp] theorem clearStopFlag_code (s : State) : (clearStopFlag s).code = s.code := rfl
@[simp] theorem clearStopFlag_rxdata (s : State) : (clearStopFlag s).rxdata = s.rxdata := rfl
@[simp] theorem clearStopFlag_seq (s : State) : (clearStopFlag s).seq = s.seq := rfl
@[simp] theorem clearStopFlag_buf (s : State) : (clearStopFlag s).buf = s.buf := rfl
@[simp] theorem clearStopFlag_envSclLow (s : State) : (clearStopFlag s).envSclLow = s.envSclLow := rfl
@[simp] theorem clearStopFlag_envSdaLow (s : State) : (clearStopFlag s).envSdaLow = s.envSdaLow := rfl
@[simp] theorem clearStopFlag_params (s : State) : (clearStopFlag s).params = s.params := rfl
@[simp] theorem clearStopFlag_hostData (s : State) : (clearStopFlag s).hostData = s.hostData := rfl
@[simp] theorem clearStopFlag_draws (s : State) : (clearStopFlag s).draws = s.draws := rfl
@[simp] theorem clearStopFlag_epoch (s : State) : (clearStopFlag s).epoch = s.epoch := rfl
@[simp] theorem clearStopFlag_agenda (s : State) : (clearStopFlag s).agenda = s.agenda := rfl
@[simp] theorem clearStopFlag_wire (s : State) : (clearStopFlag s).wire = s.wire := rfl

/-! ### shiftAndCount -/

@[simp] theorem shiftAndCount_cfg (s : State) : (shiftAndCount s).cfg = s.cfg := rfl
@[simp] theorem shiftAndCount_sclDir (s : State) : (shiftAndCount s).sclDir = s.sclDir := rfl
@[simp] theorem shiftAndCount_sclPort (s : State) : (shiftAndCount s).sclPort = s.sclPort := rfl
@[simp] theorem shiftAndCount_sdaDir (s : State) : (shiftAndCount s).sdaDir = s.sdaDir := rfl
@[simp] theorem shiftAndCount_sdaPort (s : State) : (shiftAndCount s).sdaPort = s.sdaPort := rfl
@[simp] theorem shiftAndCount_sr (s : State) : (shiftAndCount s).sr = shiftIn s.sr s.latch := rfl
@[simp] theorem shiftAndCount_latch (s : State) : (shiftAndCount s).latch = s.latch := rfl
@[simp] theorem shiftAndCount_cnt (s : State) : (shiftAndCount s).cnt = s.cnt - 1 := rfl
@[simp] theorem shiftAndCount_oif (s : State) : (shiftAndCount s).oif = (s.oif || decide (s.cnt - 1 = 0)) := rfl
@[simp] theorem shiftAndCount_sif (s : State) : (shiftAndCount s).sif = s.sif := rfl
@[simp] theorem shiftAndCount_pf (s : State) : (shiftAndCount s).pf = s.pf := rfl
@[simp] theorem shiftAndCount_busy (s : State) : (shiftAndCount s).busy = s.busy := rfl
@[simp] theorem shiftAndCount_code (s : State) : (shiftAndCount s).code = s.code := rfl
@[simp] theorem shiftAndCount_rxdata (s : State) : (shiftAndCount s).rxdata = s.rxdata := rfl
@[simp] theorem shiftAndCount_seq (s : State) : (shiftAndCount s).seq = s.seq := rfl
@[simp] theorem shiftAndCount_buf (s : State) : (shiftAndCount s).buf = s.buf := rfl
@[simp] theorem shiftAndCount_envSclLow (s : State) : (shiftAndCount s).envSclLow = s.envSclLow := rfl
@[simp] theorem shiftAndCount_envSdaLow (s : State) : (shiftAndCount s).envSdaLow = s.envSdaLow := rfl
@[simp] theorem shiftAndCount_params (s : State) : (shiftAndCount s).params = s.params := rfl
@[simp] theorem shiftAndCount_hostData (s : State) : (shiftAndCount s).hostData = s.hostData := rfl
@[simp] theorem shiftAndCount_draws (s : State) : (shiftAndCount s).draws = s.draws := rfl
@[simp] theorem shiftAndCount_epoch (s : State) : (shiftAndCount s).epoch = s.epoch := rfl
@[simp] theorem shiftAndCount_agenda (s : State) : (shiftAndCount s).agenda = s.agenda := rfl
@[simp] theorem shiftAndCount_wire (s : State) : (shiftAndCount s).wire = s.wire := rfl

/-! ### initLines -/

@[simp] theorem initLines_cfg (s : State) : (initLines s).cfg = s.cfg := rfl
@[simp] theorem initLines_sclDir (s : State) : (initLines s).sclDir = true := rfl
@[simp] theorem initLines_sclPort (s : State) : (initLines s).sclPort = true := rfl
@[simp] theorem initLines_sdaDir (s : State) : (initLines s).sdaDir = true := rfl
@[simp] theorem initLines_sdaPort (s : State) : (initLines s).sdaPort = true := rfl
@[simp] theorem initLines_sr (s : State) : (initLines s).sr = 0xFF := rfl
@[simp] theorem initLines_latch (s : State) : (initLines s).latch = s.latch := rfl
@[simp] theorem initLines_cnt (s : State) : (initLines s).cnt = s.cnt := rfl
@[simp] theorem initLines_oif (s : State) : (initLines s).oif = s.oif := rfl
@[simp] theorem initLines_sif (s : State) : (initLines s).sif = s.sif := rfl
@[simp] theorem initLines_pf (s : State) : (initLines s).pf = s.pf := rfl
@[simp] theorem initLines_busy (s : State) : (initLines s).busy = s.busy := rfl
@[simp] theorem initLines_code (s : State) : (initLines s).code = s.code := rfl
@[simp] theorem initLines_rxdata (s : State) : (initLines s).rxdata = s.rxdata := rfl
@[simp] theorem initLines_seq (s : State) : (initLines s).seq = s.seq := rfl
@[simp] theorem initLines_buf (s : State) : (initLines s).buf = s.buf := rfl
@[simp] theorem initLines_envSclLow (s : State) : (initLines s).envSclLow = s.envSclLow := rfl
@[simp] theorem initLines_envSdaLow (s : State) : (initLines s).envSdaLow = s.envSdaLow := rfl
@[simp] theorem initLines_params (s : State) : (initLines s).params = s.params := rfl
@[simp] theorem initLines_hostData (s : State) : (initLines s).hostData = s.hostData := rfl
@[simp] theorem initLines_draws (s : State) : (initLines s).draws = s.draws := rfl
@[simp] theorem initLines_epoch (s : State) : (initLines s).epoch = s.epoch := rfl
@[simp] theorem initLines_agenda (s : State) : (initLines s).agenda = s.agenda := rfl
@[simp] theorem initLines_wire (s : State) : (initLines s).wire = s.wire := rfl

/-! ### issue -/

@[simp] theorem issue_cfg (w : Word) (i : Instr) (s : State) : (issue w i s).cfg = s.cfg := rfl
@[simp] theorem issue_sclDir (w : Word) (i : Instr) (s : State) : (issue w i s).sclDir = s.sclDir := rfl
@[simp] theorem issue_sclPort (w : Word) (i : Instr) (s : State) : (issue w i s).sclPort = s.sclPort := rfl
@[simp] theorem issue_sdaDir (w : Word) (i : Instr) (s : State) : (issue w i s).sdaDir = s.sdaDir := rfl
@[simp] theorem issue_sdaPort (w : Word) (i : Instr) (s : State) : (issue w i s).sdaPort = s.sdaPort := rfl
@[simp] theorem issue_sr (w : Word) (i : Instr) (s : State) : (issue w i s).sr = s.sr := rfl
@[simp] theorem issue_latch (w : Word) (i : Instr) (s : State) : (issue w i s).latch = s.latch := rfl
@[simp] theorem issue_cnt (w : Word) (i : Instr) (s : State) : (issue w i s).cnt = s.cnt := rfl
@[simp] theorem issue_oif (w : Word) (i : Instr) (s : State) : (issue w i s).oif = s.oif := rfl
@[simp] theorem issue_sif (w : Word) (i : Instr) (s : State) : (issue w i s).sif = s.sif := rfl
@[simp] theorem issue_pf (w : Word) (i : Instr) (s : State) : (issue w i s).pf = s.pf := rfl
@[simp] theorem issue_busy (w : Word) (i : Instr) (s : State) : (issue w i s).busy = true := rfl
@[simp] theorem issue_code (w : Word) (i : Instr) (s : State) : (issue w i s).code = s.code := rfl
@[simp] theorem issue_rxdata (w : Word) (i : Instr) (s : State) : (issue w i s).rxdata = s.rxdata := rfl
@[simp] theorem issue_seq (w : Word) (i : Instr) (s : State) : (issue w i s).seq = some { curCmd := w, pos := firstPos i, loc := firstLocals i } := rfl
@[simp] theorem issue_buf (w : Word) (i : Instr) (s : State) : (issue w i s).buf = s.buf := rfl
@[simp] theorem issue_envSclLow (w : Word) (i : Instr) (s : State) : (issue w i s).envSclLow = s.envSclLow := rfl
@[simp] theorem issue_envSdaLow (w : Word) (i : Instr) (s : State) : (issue w i s).envSdaLow = s.envSdaLow := rfl
@[simp] theorem issue_params (w : Word) (i : Instr) (s : State) : (issue w i s).params = s.params := rfl
@[simp] theorem issue_hostData (w : Word) (i : Instr) (s : State) : (issue w i s).hostData = s.hostData := rfl
@[simp] theorem issue_draws (w : Word) (i : Instr) (s : State) : (issue w i s).draws = s.draws := rfl
@[simp] theorem issue_epoch (w : Word) (i : Instr) (s : State) : (issue w i s).epoch = s.epoch := rfl
@[simp] theorem issue_agenda (w : Word) (i : Instr) (s : State) : (issue w i s).agenda = s.agenda := rfl
@[simp] theorem issue_wire (w : Word) (i : Instr) (s : State) : (issue w i s).wire = s.wire := rfl

/-! ### finish -/

@[simp] theorem finish_cfg (st : Status) (rx : Option Byte) (s : State) : (finish st rx s).cfg = s.cfg := rfl
@[simp] theorem finish_sclDir (st : Status) (rx : Option Byte) (s : State) : (finish st rx s).sclDir = s.sclDir := rfl
@[simp] theorem finish_sclPort (st : Status) (rx : Option Byte) (s : State) : (finish st rx s).sclPort = s.sclPort := rfl
@[simp] theorem finish_sdaDir (st : Status) (rx : Option Byte) (s : State) : (finish st rx s).sdaDir = s.sdaDir := rfl
@[simp] theorem finish_sdaPort (st : Status) (rx : Option Byte) (s : State) : (finish st rx s).sdaPort = s.sdaPort := rfl
@[simp] theorem finish_sr (st : Status) (rx : Option Byte) (s : State) : (finish st rx s).sr = s.sr := rfl
@[simp] theorem finish_latch (st : Status) (rx : Option Byte) (s : State) : (finish st rx s).latch = s.latch := rfl
@[simp] theorem finish_cnt (st : Status) (rx : Option Byte) (s : State) : (finish st rx s).cnt = s.cnt := rfl
@[simp] theorem finish_oif (st : Status) (rx : Option Byte) (s : State) : (finish st rx s).oif = s.oif := rfl
@[simp] theorem finish_sif (st : Status) (rx : Option Byte) (s : State) : (finish st rx s).sif = s.sif := rfl
@[simp] theorem finish_pf (st : Status) (rx : Option Byte) (s : State) : (finish st rx s).pf = s.pf := rfl
@[simp] theorem finish_busy (st : Status) (rx : Option Byte) (s : State) : (finish st rx s).busy = false := rfl
@[simp] theorem finish_code (st : Status) (rx : Option Byte) (s : State) : (finish st rx s).code = encStatus st := rfl
@[simp] theorem finish_rxdata (st : Status) (rx : Option Byte) (s : State) : (finish st rx s).rxdata = rx.getD s.rxdata := rfl
@[simp] theorem finish_seq (st : Status) (rx : Option Byte) (s : State) : (finish st rx s).seq = none := rfl
@[simp] theorem finish_buf (st : Status) (rx : Option Byte) (s : State) : (finish st rx s).buf = s.buf := rfl
@[simp] theorem finish_envSclLow (st : Status) (rx : Option Byte) (s : State) : (finish st rx s).envSclLow = s.envSclLow := rfl
@[simp] theorem finish_envSdaLow (st : Status) (rx : Option Byte) (s : State) : (finish st rx s).envSdaLow = s.envSdaLow := rfl
@[simp] theorem finish_params (st : Status) (rx : Option Byte) (s : State) : (finish st rx s).params = s.params := rfl
@[simp] theorem finish_hostData (st : Status) (rx : Option Byte) (s : State) : (finish st rx s).hostData = s.hostData := rfl
@[simp] theorem finish_draws (st : Status) (rx : Option Byte) (s : State) : (finish st rx s).draws = s.draws := rfl
@[simp] theorem finish_epoch (st : Status) (rx : Option Byte) (s : State) : (finish st rx s).epoch = s.epoch := rfl
@[simp] theorem finish_agenda (st : Status) (rx : Option Byte) (s : State) : (finish st rx s).agenda = s.agenda := rfl
@[simp] theorem finish_wire (st : Status) (rx : Option Byte) (s : State) : (finish st rx s).wire = s.wire := rfl

/-! ### goTo -/

@[simp] theorem goTo_cfg (q : Sequencer) (p : Pos) (l : Locals) (s : State) : (goTo q p l s).cfg = s.cfg := rfl
@[simp] theorem goTo_sclDir (q : Sequencer) (p : Pos) (l : Locals) (s : State) : (goTo q p l s).sclDir = s.sclDir := rfl
@[simp] theorem goTo_sclPort (q : Sequencer) (p : Pos) (l : Locals) (s : State) : (goTo q p l s).sclPort = s.sclPort := rfl
@[simp] theorem goTo_sdaDir (q : Sequencer) (p : Pos) (l : Locals) (s : State) : (goTo q p l s).sdaDir = s.sdaDir := rfl
@[simp] theorem goTo_sdaPort (q : Sequencer) (p : Pos) (l : Locals) (s : State) : (goTo q p l s).sdaPort = s.sdaPort := rfl
@[simp] theorem goTo_sr (q : Sequencer) (p : Pos) (l : Locals) (s : State) : (goTo q p l s).sr = s.sr := rfl
@[simp] theorem goTo_latch (q : Sequencer) (p : Pos) (l : Locals) (s : State) : (goTo q p l s).latch = s.latch := rfl
@[simp] theorem goTo_cnt (q : Sequencer) (p : Pos) (l : Locals) (s : State) : (goTo q p l s).cnt = s.cnt := rfl
@[simp] theorem goTo_oif (q : Sequencer) (p : Pos) (l : Locals) (s : State) : (goTo q p l s).oif = s.oif := rfl
@[simp] theorem goTo_sif (q : Sequencer) (p : Pos) (l : Locals) (s : State) : (goTo q p l s).sif = s.sif := rfl
@[simp] theorem goTo_pf (q : Sequencer) (p : Pos) (l : Locals) (s : State) : (goTo q p l s).pf = s.pf := rfl
@[simp] theorem goTo_busy (q : Sequencer) (p : Pos) (l : Locals) (s : State) : (goTo q p l s).busy = s.busy := rfl
@[simp] theorem goTo_code (q : Sequencer) (p : Pos) (l : Locals) (s : State) : (goTo q p l s).code = s.code := rfl
@[simp] theorem goTo_rxdata (q : Sequencer) (p : Pos) (l : Locals) (s : State) : (goTo q p l s).rxdata = s.rxdata := rfl
@[simp] theorem goTo_seq (q : Sequencer) (p : Pos) (l : Locals) (s : State) : (goTo q p l s).seq = some { q with pos := p, loc := l } := rfl
@[simp] theorem goTo_buf (q : Sequencer) (p : Pos) (l : Locals) (s : State) : (goTo q p l s).buf = s.buf := rfl
@[simp] theorem goTo_envSclLow (q : Sequencer) (p : Pos) (l : Locals) (s : State) : (goTo q p l s).envSclLow = s.envSclLow := rfl
@[simp] theorem goTo_envSdaLow (q : Sequencer) (p : Pos) (l : Locals) (s : State) : (goTo q p l s).envSdaLow = s.envSdaLow := rfl
@[simp] theorem goTo_params (q : Sequencer) (p : Pos) (l : Locals) (s : State) : (goTo q p l s).params = s.params := rfl
@[simp] theorem goTo_hostData (q : Sequencer) (p : Pos) (l : Locals) (s : State) : (goTo q p l s).hostData = s.hostData := rfl
@[simp] theorem goTo_draws (q : Sequencer) (p : Pos) (l : Locals) (s : State) : (goTo q p l s).draws = s.draws := rfl
@[simp] theorem goTo_epoch (q : Sequencer) (p : Pos) (l : Locals) (s : State) : (goTo q p l s).epoch = s.epoch := rfl
@[simp] theorem goTo_agenda (q : Sequencer) (p : Pos) (l : Locals) (s : State) : (goTo q p l s).agenda = s.agenda := rfl
@[simp] theorem goTo_wire (q : Sequencer) (p : Pos) (l : Locals) (s : State) : (goTo q p l s).wire = s.wire := rfl

/-! ### The detector, the record of the lines, and one (µ) step -/

@[simp] theorem detect_cfg (s0 s1 : State) : (detect s0 s1).cfg = s1.cfg := rfl
@[simp] theorem detect_sclDir (s0 s1 : State) : (detect s0 s1).sclDir = s1.sclDir := rfl
@[simp] theorem detect_sclPort (s0 s1 : State) : (detect s0 s1).sclPort = s1.sclPort := rfl
@[simp] theorem detect_sdaDir (s0 s1 : State) : (detect s0 s1).sdaDir = s1.sdaDir := rfl
@[simp] theorem detect_sdaPort (s0 s1 : State) : (detect s0 s1).sdaPort = s1.sdaPort := rfl
@[simp] theorem detect_sr (s0 s1 : State) : (detect s0 s1).sr = s1.sr := rfl
@[simp] theorem detect_latch (s0 s1 : State) : (detect s0 s1).latch = s1.latch := rfl
@[simp] theorem detect_cnt (s0 s1 : State) : (detect s0 s1).cnt = s1.cnt := rfl
@[simp] theorem detect_oif (s0 s1 : State) : (detect s0 s1).oif = s1.oif := rfl
@[simp] theorem detect_sif (s0 s1 : State) : (detect s0 s1).sif = (s1.sif || startSeen s0 s1) := rfl
@[simp] theorem detect_pf (s0 s1 : State) : (detect s0 s1).pf = (s1.pf || stopSeen s0 s1) := rfl
@[simp] theorem detect_busy (s0 s1 : State) : (detect s0 s1).busy = s1.busy := rfl
@[simp] theorem detect_code (s0 s1 : State) : (detect s0 s1).code = s1.code := rfl
@[simp] theorem detect_rxdata (s0 s1 : State) : (detect s0 s1).rxdata = s1.rxdata := rfl
@[simp] theorem detect_seq (s0 s1 : State) : (detect s0 s1).seq = s1.seq := rfl
@[simp] theorem detect_buf (s0 s1 : State) : (detect s0 s1).buf = s1.buf := rfl
@[simp] theorem detect_envSclLow (s0 s1 : State) : (detect s0 s1).envSclLow = s1.envSclLow := rfl
@[simp] theorem detect_envSdaLow (s0 s1 : State) : (detect s0 s1).envSdaLow = s1.envSdaLow := rfl
@[simp] theorem detect_params (s0 s1 : State) : (detect s0 s1).params = s1.params := rfl
@[simp] theorem detect_hostData (s0 s1 : State) : (detect s0 s1).hostData = s1.hostData := rfl
@[simp] theorem detect_draws (s0 s1 : State) : (detect s0 s1).draws = s1.draws := rfl
@[simp] theorem detect_epoch (s0 s1 : State) : (detect s0 s1).epoch = s1.epoch := rfl
@[simp] theorem detect_agenda (s0 s1 : State) : (detect s0 s1).agenda = s1.agenda := rfl
@[simp] theorem detect_wire (s0 s1 : State) : (detect s0 s1).wire = s1.wire := rfl

@[simp] theorem recordLines_cfg (s0 s1 : State) : (recordLines s0 s1).cfg = s1.cfg := by
  unfold recordLines; split <;> rfl
@[simp] theorem recordLines_sclDir (s0 s1 : State) : (recordLines s0 s1).sclDir = s1.sclDir := by
  unfold recordLines; split <;> rfl
@[simp] theorem recordLines_sclPort (s0 s1 : State) : (recordLines s0 s1).sclPort = s1.sclPort := by
  unfold recordLines; split <;> rfl
@[simp] theorem recordLines_sdaDir (s0 s1 : State) : (recordLines s0 s1).sdaDir = s1.sdaDir := by
  unfold recordLines; split <;> rfl
@[simp] theorem recordLines_sdaPort (s0 s1 : State) : (recordLines s0 s1).sdaPort = s1.sdaPort := by
  unfold recordLines; split <;> rfl
@[simp] theorem recordLines_sr (s0 s1 : State) : (recordLines s0 s1).sr = s1.sr := by
  unfold recordLines; split <;> rfl
@[simp] theorem recordLines_latch (s0 s1 : State) : (recordLines s0 s1).latch = s1.latch := by
  unfold recordLines; split <;> rfl
@[simp] theorem recordLines_cnt (s0 s1 : State) : (recordLines s0 s1).cnt = s1.cnt := by
  unfold recordLines; split <;> rfl
@[simp] theorem recordLines_oif (s0 s1 : State) : (recordLines s0 s1).oif = s1.oif := by
  unfold recordLines; split <;> rfl
@[simp] theorem recordLines_sif (s0 s1 : State) : (recordLines s0 s1).sif = s1.sif := by
  unfold recordLines; split <;> rfl
@[simp] theorem recordLines_pf (s0 s1 : State) : (recordLines s0 s1).pf = s1.pf := by
  unfold recordLines; split <;> rfl
@[simp] theorem recordLines_busy (s0 s1 : State) : (recordLines s0 s1).busy = s1.busy := by
  unfold recordLines; split <;> rfl
@[simp] theorem recordLines_code (s0 s1 : State) : (recordLines s0 s1).code = s1.code := by
  unfold recordLines; split <;> rfl
@[simp] theorem recordLines_rxdata (s0 s1 : State) : (recordLines s0 s1).rxdata = s1.rxdata := by
  unfold recordLines; split <;> rfl
@[simp] theorem recordLines_seq (s0 s1 : State) : (recordLines s0 s1).seq = s1.seq := by
  unfold recordLines; split <;> rfl
@[simp] theorem recordLines_buf (s0 s1 : State) : (recordLines s0 s1).buf = s1.buf := by
  unfold recordLines; split <;> rfl
@[simp] theorem recordLines_envSclLow (s0 s1 : State) : (recordLines s0 s1).envSclLow = s1.envSclLow := by
  unfold recordLines; split <;> rfl
@[simp] theorem recordLines_envSdaLow (s0 s1 : State) : (recordLines s0 s1).envSdaLow = s1.envSdaLow := by
  unfold recordLines; split <;> rfl
@[simp] theorem recordLines_params (s0 s1 : State) : (recordLines s0 s1).params = s1.params := by
  unfold recordLines; split <;> rfl
@[simp] theorem recordLines_hostData (s0 s1 : State) : (recordLines s0 s1).hostData = s1.hostData := by
  unfold recordLines; split <;> rfl
@[simp] theorem recordLines_draws (s0 s1 : State) : (recordLines s0 s1).draws = s1.draws := by
  unfold recordLines; split <;> rfl
@[simp] theorem recordLines_epoch (s0 s1 : State) : (recordLines s0 s1).epoch = s1.epoch := by
  unfold recordLines; split <;> rfl
@[simp] theorem recordLines_agenda (s0 s1 : State) : (recordLines s0 s1).agenda = s1.agenda := by
  unfold recordLines; split <;> rfl

@[simp] theorem micro_cfg (f : State → State) (s : State) : (micro f s).cfg = (f s).cfg := by simp [micro, commit]
@[simp] theorem micro_sclDir (f : State → State) (s : State) : (micro f s).sclDir = (f s).sclDir := by simp [micro, commit]
@[simp] theorem micro_sclPort (f : State → State) (s : State) : (micro f s).sclPort = (f s).sclPort := by simp [micro, commit]
@[simp] theorem micro_sdaDir (f : State → State) (s : State) : (micro f s).sdaDir = (f s).sdaDir := by simp [micro, commit]
@[simp] theorem micro_sdaPort (f : State → State) (s : State) : (micro f s).sdaPort = (f s).sdaPort := by simp [micro, commit]
@[simp] theorem micro_sr (f : State → State) (s : State) : (micro f s).sr = (f s).sr := by simp [micro, commit]
@[simp] theorem micro_latch (f : State → State) (s : State) : (micro f s).latch = (f s).latch := by simp [micro, commit]
@[simp] theorem micro_cnt (f : State → State) (s : State) : (micro f s).cnt = (f s).cnt := by simp [micro, commit]
@[simp] theorem micro_oif (f : State → State) (s : State) : (micro f s).oif = (f s).oif := by simp [micro, commit]
@[simp] theorem micro_sif (f : State → State) (s : State) : (micro f s).sif = ((f s).sif || startSeen s (f s)) := by simp [micro, commit]
@[simp] theorem micro_pf (f : State → State) (s : State) : (micro f s).pf = ((f s).pf || stopSeen s (f s)) := by simp [micro, commit]
@[simp] theorem micro_busy (f : State → State) (s : State) : (micro f s).busy = (f s).busy := by simp [micro, commit]
@[simp] theorem micro_code (f : State → State) (s : State) : (micro f s).code = (f s).code := by simp [micro, commit]
@[simp] theorem micro_rxdata (f : State → State) (s : State) : (micro f s).rxdata = (f s).rxdata := by simp [micro, commit]
@[simp] theorem micro_seq (f : State → State) (s : State) : (micro f s).seq = (f s).seq := by simp [micro, commit]
@[simp] theorem micro_buf (f : State → State) (s : State) : (micro f s).buf = (f s).buf := by simp [micro, commit]
@[simp] theorem micro_envSclLow (f : State → State) (s : State) : (micro f s).envSclLow = (f s).envSclLow := by simp [micro, commit]
@[simp] theorem micro_envSdaLow (f : State → State) (s : State) : (micro f s).envSdaLow = (f s).envSdaLow := by simp [micro, commit]
@[simp] theorem micro_params (f : State → State) (s : State) : (micro f s).params = (f s).params := by simp [micro, commit]
@[simp] theorem micro_hostData (f : State → State) (s : State) : (micro f s).hostData = (f s).hostData := by simp [micro, commit]
@[simp] theorem micro_draws (f : State → State) (s : State) : (micro f s).draws = (f s).draws := by simp [micro, commit]
@[simp] theorem micro_epoch (f : State → State) (s : State) : (micro f s).epoch = (f s).epoch := by simp [micro, commit]
@[simp] theorem micro_agenda (f : State → State) (s : State) : (micro f s).agenda = (f s).agenda := by simp [micro, commit]

end Sys2Proof.Machine
end

