-- ==== Sys2Proof/Laws/Ops.lean ====
section
/-! SUPPORT. What the shared operations do, once: sensing after a (µ) step, the detector on a step that moves no line,
the wait, the transaction buffer (read after write, canonical form), and how a procedure's step becomes a command's. -/

namespace Sys2Proof.Machine

open Sys2Proof

/-! ## Sensing -/

@[simp] theorem sclPulled_micro (f : State → State) (s : State) : sclPulled (micro f s) = sclPulled (f s) := by
  simp [sclPulled]

@[simp] theorem sdaPulled_micro (f : State → State) (s : State) : sdaPulled (micro f s) = sdaPulled (f s) := by
  simp [sdaPulled]

@[simp] theorem sclLevel_micro (f : State → State) (s : State) : sclLevel (micro f s) = sclLevel (f s) := by
  simp [sclLevel]

@[simp] theorem sdaLevel_micro (f : State → State) (s : State) : sdaLevel (micro f s) = sdaLevel (f s) := by
  simp [sdaLevel]

@[simp] theorem sclPulled_goTo (q : Sequencer) (p : Pos) (l : Locals) (s : State) :
    sclPulled (goTo q p l s) = sclPulled s := rfl

@[simp] theorem sdaPulled_goTo (q : Sequencer) (p : Pos) (l : Locals) (s : State) :
    sdaPulled (goTo q p l s) = sdaPulled s := rfl

@[simp] theorem sclLevel_goTo (q : Sequencer) (p : Pos) (l : Locals) (s : State) :
    sclLevel (goTo q p l s) = sclLevel s := rfl

@[simp] theorem sdaLevel_goTo (q : Sequencer) (p : Pos) (l : Locals) (s : State) :
    sdaLevel (goTo q p l s) = sdaLevel s := rfl

/-! ## The detector -/

/-- A step that moves neither line shows no condition and changes no level. -/
theorem commit_of_levels {s t : State} (h : levels s = levels t) : commit s t = t := by
  have hc : sclLevel s = sclLevel t := congrArg Levels.scl h
  have hd : sdaLevel s = sdaLevel t := congrArg Levels.sda h
  have h1 : startSeen s t = false := by simp [startSeen, hc, hd]
  have h2 : stopSeen s t = false := by
    simp only [stopSeen, hc, hd]; cases sdaLevel t <;> simp
  have h3 : detect s t = t := by simp [detect, h1, h2]
  simp [commit, h3, recordLines, h]

/-- A (µ) step whose writes move neither line is just its writes. -/
theorem micro_of_levels {f : State → State} {s : State} (h : levels s = levels (f s)) : micro f s = f s :=
  commit_of_levels h

@[simp] theorem micro_id (s : State) : micro id s = s := micro_of_levels rfl

@[simp] theorem micro_delay (t : Nat) (s : State) : micro (delay t) s = s := micro_of_levels rfl

@[simp] theorem micro_bufWrite (i : BitVec 8) (v : Byte) (s : State) : micro (bufWrite i v) s = bufWrite i v s :=
  micro_of_levels rfl

@[simp] theorem micro_sample (v : State → Bool) (s : State) :
    micro (fun t => { t with latch := v t }) s = { s with latch := v s } := micro_of_levels rfl

/-! ## The wait -/

theorem waitSclHigh_eq_ready {s : State} : waitSclHigh s = .ready ↔ sclLevel s = true := by
  unfold waitSclHigh; split <;> simp_all; split <;> simp

theorem waitSclHigh_eq_hung {s : State} : waitSclHigh s = .hung ↔ sclPulled s = true := by
  unfold waitSclHigh
  cases hp : sclPulled s <;> simp [sclLevel, hp]
  split <;> simp

theorem waitSclHigh_eq_held {s : State} : waitSclHigh s = .held ↔ sclPulled s = false ∧ s.envSclLow = true := by
  unfold waitSclHigh
  cases hp : sclPulled s <;> cases he : s.envSclLow <;> simp [sclLevel, hp, he]

/-! ## The transaction buffer -/

theorem bufFind_bufInsert_same (m : List Host.Cell) (i : Nat) (v : Byte) : bufFind (bufInsert m i v) i = some v := by
  induction m with
  | nil => simp [bufInsert, bufFind]
  | cons c m ih =>
    obtain ⟨a, w⟩ := c
    by_cases h1 : i < a
    · simp [bufInsert, bufFind, h1]
    · by_cases h2 : i = a
      · simp [bufInsert, bufFind, h2]
      · simp [bufInsert, bufFind, h1, h2, Ne.symm h2, ih]

theorem bufFind_bufInsert_other (m : List Host.Cell) {i j : Nat} (v : Byte) (h : i ≠ j) :
    bufFind (bufInsert m i v) j = bufFind m j := by
  induction m with
  | nil => simp [bufInsert, bufFind, h]
  | cons c m ih =>
    obtain ⟨a, w⟩ := c
    by_cases h1 : i < a
    · simp [bufInsert, bufFind, h1, h]
    · by_cases h2 : i = a
      · subst h2; simp [bufInsert, bufFind, h]
      · simp [bufInsert, bufFind, h1, h2, ih]

theorem risingFrom_bufInsert {m : List Host.Cell} {lo i : Nat} (v : Byte) (hm : risingFrom lo m = true) (hi : lo ≤ i) :
    risingFrom lo (bufInsert m i v) = true := by
  induction m generalizing lo with
  | nil => simp [bufInsert, risingFrom, hi]
  | cons c m ih =>
    obtain ⟨a, w⟩ := c
    simp only [risingFrom, Bool.and_eq_true, decide_eq_true_eq] at hm
    by_cases h1 : i < a
    · simp [bufInsert, risingFrom, h1, hi, hm.2]
    · by_cases h2 : i = a
      · subst h2; simp [bufInsert, risingFrom, hm]
      · simp [bufInsert, risingFrom, h1, h2, hm.1, ih hm.2 (by omega)]

theorem all_bufInsert {m : List Host.Cell} {i : Nat} (v : Byte) (p : Nat → Bool) (hm : m.all (fun c => p c.1) = true)
    (hi : p i = true) : (bufInsert m i v).all (fun c => p c.1) = true := by
  induction m with
  | nil => simp [bufInsert, hi]
  | cons c m ih =>
    obtain ⟨a, w⟩ := c
    simp only [List.all_cons, Bool.and_eq_true] at hm
    by_cases h1 : i < a
    · simp [bufInsert, h1, hi, hm.1, hm.2]
    · by_cases h2 : i = a
      · simp [bufInsert, h2, hm.1, hm.2]
      · simp [bufInsert, h1, h2, hm.1, ih hm.2]

/-- The one memory operation keeps the canonical form. -/
theorem wf_bufInsert {m : List Host.Cell} (i : BitVec 8) (v : Byte) (hm : Memory.wf m = true) :
    Memory.wf (bufInsert m i.toNat v) = true := by
  simp only [Memory.wf, Bool.and_eq_true] at hm ⊢
  refine ⟨risingFrom_bufInsert v hm.1 (Nat.zero_le _), ?_⟩
  exact all_bufInsert v (fun a => decide (a < Config.bufLen)) hm.2 (decide_eq_true (show i.toNat < 256 from i.isLt))

theorem wf_reset : Memory.wf State.reset.buf = true := rfl

/-- Read after write, and a write leaves every other byte alone. -/
theorem bufRead_bufWrite (i j : BitVec 8) (v : Byte) (s : State) :
    bufRead j (bufWrite i v s) = if j = i then v else bufRead j s := by
  by_cases h : j = i
  · subst h; simp [bufRead, bufFind_bufInsert_same]
  · have hn : i.toNat ≠ j.toNat := fun e => h (BitVec.eq_of_toNat_eq e.symm)
    simp [bufRead, bufFind_bufInsert_other _ v hn, h]

/-- BUF is read from `buf` and `epoch` alone. -/
theorem bufRead_congr {s t : State} (hb : t.buf = s.buf) (he : t.epoch = s.epoch) (j : BitVec 8) :
    bufRead j t = bufRead j s := by simp [bufRead, hb, he]

/-! ## Steps of procedures and commands -/

/-- What holds of the locals and the state a procedure's step leaves, when it takes one. -/
def ProcStep.All {π ρ : Type} (P : Locals → State → Prop) : ProcStep π ρ → Prop
  | .goto _ l s => P l s
  | .ret _ l s => P l s
  | .held => True
  | .hung => True

theorem callStep_all {π ρ π' ρ' : Type} {P : Locals → State → Prop} {inj : π → π'}
    {k : ρ → Locals → State → ProcStep π' ρ'} {x : ProcStep π ρ} (hx : x.All P)
    (hk : ∀ r l s, P l s → (k r l s).All P) : (callStep inj k x).All P := by
  cases x with
  | goto p l s => exact hx
  | ret r l s => exact hk r l s hx
  | held => trivial
  | hung => trivial

/-- If a procedure's step answers a next state, the callee went on, or it returned to `k`, or it is held and nothing
changed. -/
theorem runStep_next {π ρ : Type} {s t : State} {q : Sequencer} {inj : π → Pos}
    {k : ρ → Locals → State → Host.Outcome State Fault Refusal} {x : ProcStep π ρ} (h : runStep s q inj k x = .next t) :
    (∃ p l u, x = .goto p l u ∧ t = goTo q (inj p) l u) ∨ (∃ r l u, x = .ret r l u ∧ k r l u = .next t) ∨
      (x = .held ∧ t = s) := by
  cases x with
  | goto p l u => exact .inl ⟨p, l, u, rfl, by simpa [runStep] using h.symm⟩
  | ret r l u => exact .inr (.inl ⟨r, l, u, rfl, h⟩)
  | held => exact .inr (.inr ⟨rfl, by simpa [runStep] using h.symm⟩)
  | hung => simp [runStep] at h

/-- A meaning that answers a next state has a sequencer. -/
theorem withSeq_next {s t : State} {f : Sequencer → Host.Outcome State Fault Refusal} (h : withSeq s f = .next t) :
    ∃ q, s.seq = some q ∧ f q = .next t := by
  unfold withSeq at h
  split at h
  · cases h
  · exact ⟨_, ‹_›, h⟩

theorem withSeq_some {s : State} {q : Sequencer} (f : Sequencer → Host.Outcome State Fault Refusal)
    (h : s.seq = some q) : withSeq s f = f q := by simp [withSeq, h]

end Sys2Proof.Machine
end

