-- ==== Sys2Proof/Laws/Procedures.lean ====
section
/-! SUPPORT. One spec lemma per procedure: what a step of Start(), Stop(), Transfer(n), ReadByte and WriteByte can do, from
a state with the drivers of its position: where it goes on, with the drivers of the new position and fewer steps left;
what it returns, at a boundary; and when it is held or hung. -/

namespace Sys2Proof.Machine

open Sys2Proof

/-- The fields no procedure writes. -/
structure Kept (s t : State) : Prop where
  cfg : t.cfg = s.cfg
  sclDir : t.sclDir = s.sclDir
  busy : t.busy = s.busy
  code : t.code = s.code
  rxdata : t.rxdata = s.rxdata
  buf : t.buf = s.buf
  envScl : t.envSclLow = s.envSclLow
  envSda : t.envSdaLow = s.envSdaLow
  params : t.params = s.params
  hostData : t.hostData = s.hostData
  draws : t.draws = s.draws
  epoch : t.epoch = s.epoch
  agenda : t.agenda = s.agenda

theorem Kept.refl (s : State) : Kept s s := by constructor <;> rfl

/-- The locals no procedure writes. -/
def KeptLocals (l l' : Locals) : Prop := l'.attempt = l.attempt ∧ l'.i = l.i ∧ l'.status = l.status

/-- What a procedure's step does, by its four outcomes. -/
def ProcStep.Spec {π ρ : Type} (onGoto : π → Locals → State → Prop) (onRet : ρ → Locals → State → Prop) (onHeld : Prop)
    (onHung : Prop) : ProcStep π ρ → Prop
  | .goto p l s => onGoto p l s
  | .ret r l s => onRet r l s
  | .held => onHeld
  | .hung => onHung

theorem callStep_spec {π ρ π' ρ' : Type} {G : π → Locals → State → Prop} {R : ρ → Locals → State → Prop} {H U : Prop}
    {G' : π' → Locals → State → Prop} {R' : ρ' → Locals → State → Prop} {H' U' : Prop} {inj : π → π'}
    {k : ρ → Locals → State → ProcStep π' ρ'} {x : ProcStep π ρ} (hx : x.Spec G R H U)
    (hG : ∀ p l s, G p l s → G' (inj p) l s) (hR : ∀ r l s, R r l s → (k r l s).Spec G' R' H' U') (hH : H → H')
    (hU : U → U') : (callStep inj k x).Spec G' R' H' U' := by
  cases x with
  | goto p l s => exact hG p l s hx
  | ret r l s => exact hR r l s hx
  | held => exact hH hx
  | hung => exact hU hx

theorem lineOk_iff {s : State} : lineOk s = true ↔ s.sclDir = true ∧ s.sdaDir = true ∧ s.sr = 0xFF := by
  simp [lineOk, and_assoc]

theorem boundaryOk_iff {s : State} :
    boundaryOk s = true ↔ s.sclDir = true ∧ s.sdaDir = true ∧ s.sr = 0xFF ∧ s.sdaPort = true := by
  simp [boundaryOk, lineOk_iff, and_assoc]

theorem mayFinish_pendingCheck (s : State) : mayFinish .start (pendingCheck s) = true := by
  unfold pendingCheck; repeat' split
  all_goals rfl

theorem mayFinish_verifyStart (s : State) : mayFinish .start (verifyStartStatus s) = true := by
  unfold verifyStartStatus; split <;> rfl

theorem mayFinish_verifyStop (s : State) : mayFinish .stop (verifyStopStatus s) = true := by
  unfold verifyStopStatus; split <;> rfl

/-- One step of Start() from the drivers of its position. -/
theorem startStep_spec {p : StartPos} {l : Locals} {s : State} (h : startOk p s = true) :
    (startStep p l s).Spec
      (fun p' l' t => startOk p' t = true ∧ Kept s t ∧ t.cnt = s.cnt ∧ KeptLocals l l' ∧ startLeft p' < startLeft p)
      (fun r l' t => boundaryOk t = true ∧ Kept s t ∧ t.cnt = s.cnt ∧ KeptLocals l l' ∧ l'.s = r ∧
        mayFinish .start r = true ∧ 0 < startLeft p ∧ (isTransient r = true → p = .check))
      False False := by
  have hl : lineOk s = true := by simp only [startOk, Bool.and_eq_true] at h; exact h.1
  rw [lineOk_iff] at hl
  obtain ⟨h1, h2, h3⟩ := hl
  cases p
  case check =>
    simp only [startStep]
    split
    · refine ⟨?_, by simpa using Kept.refl s, by simp, ⟨rfl, rfl, rfl⟩, by decide⟩
      simpa [startOk] using h
    · refine ⟨?_, by simpa using Kept.refl s, by simp, ⟨rfl, rfl, rfl⟩, rfl, mayFinish_pendingCheck s, by decide,
        fun _ => trivial⟩
      simpa [startOk, boundaryOk] using h
  case verify =>
    refine ⟨?_, by simpa using Kept.refl s, by simp, ⟨rfl, rfl, rfl⟩, rfl, mayFinish_verifyStart s, by decide,
      ?_⟩
    · simp [startOk] at h
      simp [boundaryOk, h]
    · unfold verifyStartStatus; split <;> simp [isTransient]
  all_goals
    simp [startOk] at h
    refine ⟨by simp [startOk, lineOk, h1, h2, h3, h], by constructor <;> simp, by simp, ⟨rfl, rfl, rfl⟩, by decide⟩

/-- One step of Stop() from the drivers of its position: it can be held, at its wait only, by the peer. -/
theorem stopStep_spec {p : StopPos} {l : Locals} {s : State} (h : stopOk p s = true) :
    (stopStep p l s).Spec
      (fun p' l' t => stopOk p' t = true ∧ Kept s t ∧ t.cnt = s.cnt ∧ KeptLocals l l' ∧ stopLeft p' < stopLeft p)
      (fun r l' t => boundaryOk t = true ∧ t.sclPort = true ∧ Kept s t ∧ t.cnt = s.cnt ∧ KeptLocals l l' ∧ l'.s = r ∧
        mayFinish .stop r = true ∧ 0 < stopLeft p)
      (s.envSclLow = true) False := by
  have hl : lineOk s = true := by simp only [stopOk, Bool.and_eq_true] at h; exact h.1
  rw [lineOk_iff] at hl
  obtain ⟨h1, h2, h3⟩ := hl
  cases p
  case waitHigh =>
    simp [stopOk] at h
    simp only [stopStep]
    cases hw : waitSclHigh s with
    | ready =>
      refine ⟨by simp [stopOk, lineOk, h1, h2, h3, h], by simpa using Kept.refl s, by simp, ⟨rfl, rfl, rfl⟩, by decide⟩
    | held => exact (waitSclHigh_eq_held.1 hw).2
    | hung => simp [waitSclHigh_eq_hung, sclPulled, h.2.2] at hw
  case verify =>
    simp [stopOk] at h
    refine ⟨?_, by simp [h], by constructor <;> simp, by simp, ⟨rfl, rfl, rfl⟩, rfl, mayFinish_verifyStop s, by decide⟩
    simp [boundaryOk, lineOk, h1, h2, h3, h]
  all_goals
    simp [stopOk] at h
    refine ⟨by simp [stopOk, lineOk, h1, h2, h3, h], by constructor <;> simp, by simp, ⟨rfl, rfl, rfl⟩, by decide⟩

theorem counting_iff {n : BitVec 4} {s : State} :
    counting n s = true ↔ 1 ≤ s.cnt.toNat ∧ s.cnt.toNat ≤ n.toNat ∧ s.oif = false := by
  simp [counting, and_assoc]

theorem counting_congr {n : BitVec 4} {s t : State} (hc : t.cnt = s.cnt) (ho : t.oif = s.oif) :
    counting n t = counting n s := by simp [counting, hc, ho]

theorem toNat_sub_one {c : BitVec 4} (h : 1 ≤ c.toNat) : (c - 1).toNat = c.toNat - 1 := by
  have := c.isLt
  bv_omega

/-- One step of Transfer(n), n in 1..8, from the drivers and the countdown of its position: the step count goes down
(R166), it can be held by the peer, and hung only before its first bit and when entered with the clock released. -/
theorem xferStep_spec {low : Bool} {n : BitVec 4} {p : XferPos} {l : Locals} {s : State} (hn : 1 ≤ n.toNat)
    (h8 : n.toNat ≤ 8) (hc8 : s.cnt.toNat ≤ 8) (h : xferOk low n p s = true) :
    (xferStep n p l s).Spec
      (fun p' l' t => xferOk low n p' t = true ∧ Kept s t ∧ t.cnt.toNat ≤ 8 ∧ KeptLocals l l' ∧ l'.s = l.s ∧ l'.b = l.b ∧
        xferLeft n.toNat t.cnt.toNat p' < xferLeft n.toNat s.cnt.toNat p)
      (fun _ l' t => boundaryOk t = true ∧ t.sclPort = false ∧ Kept s t ∧ t.cnt.toNat ≤ 8 ∧ KeptLocals l l' ∧
        l'.s = l.s ∧ l'.b = l.b ∧ xferLeft n.toNat s.cnt.toNat p = 1)
      (s.envSclLow = true ∧ p = .sample) (low = false ∧ p = .sample ∧ sclPulled s = true) := by
  have h1 : s.sclDir = true := by simp only [xferOk, Bool.and_eq_true] at h; exact h.1.1
  have h2 : s.sdaPort = true := by simp only [xferOk, Bool.and_eq_true] at h; exact h.1.2
  cases p
  case preload =>
    simp [xferOk] at h
    refine ⟨?_, by constructor <;> simp, by simpa using h8, ⟨rfl, rfl, rfl⟩, rfl, rfl, by simp [xferLeft]⟩
    simp [xferOk, h1, h2, counting_iff, hn]
    exact h.2
  case setup =>
    simp [xferOk] at h
    have hc := counting_iff.1 h.2.1
    refine ⟨?_, by simpa using Kept.refl s, by simpa using hc8, ⟨rfl, rfl, rfl⟩, rfl, rfl, by simp [xferLeft]⟩
    simp [xferOk, h]
  case toggle =>
    simp [xferOk] at h
    have hc := counting_iff.1 h.2.1
    refine ⟨?_, by constructor <;> simp, by simpa using hc8, ⟨rfl, rfl, rfl⟩, rfl, rfl, by simp [xferLeft]⟩
    simpa [xferOk, h1, h2, counting] using ⟨by simpa [counting] using h.2.1, h.2.2⟩
  case sample =>
    simp [xferOk] at h
    have hc := counting_iff.1 h.2.1
    simp only [xferStep]
    cases hw : waitSclHigh s with
    | ready =>
      have hlev := waitSclHigh_eq_ready.1 hw
      have hp : s.sclPort = true := by simp [sclLevel, sclPulled, h1] at hlev; exact hlev.1
      refine ⟨?_, by constructor <;> simp, by simpa using hc8, ⟨rfl, rfl, rfl⟩, rfl, rfl, ?_⟩
      · simpa [xferOk, h1, h2, counting, hp] using h.2.1
      · simp [xferLeft]; omega
    | held => exact ⟨(waitSclHigh_eq_held.1 hw).2, trivial⟩
    | hung =>
      have hp := waitSclHigh_eq_hung.1 hw
      have hq : s.sclPort = false := by simpa [sclPulled, h1] using hp
      refine ⟨?_, trivial, hp⟩
      simp [hq] at h
      exact h.2.2.1
  case hold =>
    simp [xferOk] at h
    have hc := counting_iff.1 h.2.1
    refine ⟨by simp [xferOk, h], by simpa using Kept.refl s, by simpa using hc8, ⟨rfl, rfl, rfl⟩, rfl, rfl, ?_⟩
    simp [xferLeft]; omega
  case toggleBack =>
    simp [xferOk] at h
    have hc := counting_iff.1 h.2.1
    refine ⟨?_, by constructor <;> simp, by simpa using hc8, ⟨rfl, rfl, rfl⟩, rfl, rfl, ?_⟩
    · simpa [xferOk, h1, h2, counting, h.2.2] using h.2.1
    · simp [xferLeft]; omega
  case shift =>
    simp [xferOk] at h
    have hc := counting_iff.1 h.2.1
    have hs : (s.cnt - 1#4).toNat = s.cnt.toNat - 1 := toNat_sub_one hc.1
    obtain ⟨c, hg⟩ : ∃ c, s.cnt - 1#4 = c := ⟨_, rfl⟩
    rw [hg] at hs
    by_cases hz : c = 0#4
    · subst hz
      have hz' : s.cnt.toNat = 1 := by simp at hs; omega
      refine ⟨?_, by constructor <;> simp, ?_, ⟨rfl, rfl, rfl⟩, rfl, rfl, ?_⟩
      · simp [xferOk, h1, h2, h.2.2, hg]
      · simp only [micro_cnt, shiftAndCount_cnt, BitVec.ofNat_eq_ofNat, hg]; simp
      · simp [xferLeft, hz', hg]
    · have hz' : c.toNat ≠ 0 := by
        intro e; apply hz; apply BitVec.eq_of_toNat_eq; simp [e]
      have hne : c ≠ n := by
        intro e; subst e; omega
      refine ⟨?_, by constructor <;> simp, ?_, ⟨rfl, rfl, rfl⟩, rfl, rfl, ?_⟩
      · simp [hg, hz, xferOk, h1, h2, h.2.2, counting, hc.2.2, -BitVec.toNat_sub]; omega
      · simp only [micro_cnt, shiftAndCount_cnt, BitVec.ofNat_eq_ofNat, hg]; omega
      · simp [hg, hz, xferLeft, hc.2.2, -BitVec.toNat_sub]; omega
  case capture =>
    simp [xferOk] at h
    refine ⟨?_, by constructor <;> simp, by simpa using hc8, ⟨rfl, rfl, rfl⟩, rfl, rfl, by simp [xferLeft]⟩
    simp [xferOk, h1, h2, h]
  case dirOut =>
    simp [xferOk] at h
    refine ⟨?_, by simp [h], by constructor <;> simp, by simpa using hc8, ⟨rfl, rfl, rfl⟩, rfl, rfl, by simp [xferLeft]⟩
    simp [boundaryOk, lineOk, h1, h2, h]

/-- One step of ReadByte from the drivers of its position. -/
theorem readByteStep_spec {low more : Bool} {p : ReadPos} {l : Locals} {s : State} (hc8 : s.cnt.toNat ≤ 8)
    (h : readOk low p s = true) :
    (readByteStep more p l s).Spec
      (fun p' l' t => readOk low p' t = true ∧ Kept s t ∧ t.cnt.toNat ≤ 8 ∧ KeptLocals l l' ∧
        readLeft t.cnt.toNat p' < readLeft s.cnt.toNat p)
      (fun _ l' t => boundaryOk t = true ∧ t.sclPort = false ∧ Kept s t ∧ t.cnt.toNat ≤ 8 ∧ KeptLocals l l' ∧
        readLeft s.cnt.toNat p = 1)
      (s.envSclLow = true) (low = false ∧ p = .data .sample ∧ sclPulled s = true) := by
  cases p
  case dirIn =>
    simp [readOk, boundaryOk_iff] at h
    refine ⟨?_, by constructor <;> simp, by simpa using hc8, ⟨rfl, rfl, rfl⟩, by simp [readLeft, xferLeft]⟩
    simpa [readOk, xferOk, h.1] using h.2
  case data x =>
    refine callStep_spec (xferStep_spec (low := low) (n := 8) (by decide) (by decide) hc8 h) ?_ ?_ ?_ ?_
    · rintro p' l' t ⟨h1, h2, h3, h4, -, -, h5⟩
      exact ⟨h1, h2, h3, h4, by simpa [readLeft] using h5⟩
    · rintro r l' t ⟨h1, h2, h3, h4, h5, -, -, h6⟩
      refine ⟨by simp [readOk, h1, h2], h3, h4, h5, ?_⟩
      have h6' : xferLeft 8 s.cnt.toNat x = 1 := h6
      simp [readLeft, h6']
    · exact fun hh => hh.1
    · rintro ⟨h1, rfl, h3⟩; exact ⟨h1, rfl, h3⟩
  case ack x =>
    refine callStep_spec (xferStep_spec (low := true) (n := 1) (by decide) (by decide) hc8 h) ?_ ?_ ?_ ?_
    · rintro p' l' t ⟨h1, h2, h3, h4, -, -, h5⟩
      exact ⟨h1, h2, h3, h4, by simpa [readLeft] using h5⟩
    · rintro r l' t ⟨h1, h2, h3, h4, h5, -, -, h6⟩
      exact ⟨h1, h2, h3, h4, h5, h6⟩
    · exact fun hh => hh.1
    · rintro ⟨h1, -⟩; cases h1
  all_goals
    simp [readOk, boundaryOk_iff] at h
    refine ⟨?_, by constructor <;> simp, by simpa using hc8, ⟨rfl, rfl, rfl⟩, by simp [readLeft, xferLeft]⟩
    simp [readOk, boundaryOk, lineOk, xferOk, h]

/-- One step of WriteByte from the drivers of its position. -/
theorem writeByteStep_spec {v : Byte} {p : WritePos} {l : Locals} {s : State} (hc8 : s.cnt.toNat ≤ 8)
    (h : writeOk p s = true) :
    (writeByteStep v p l s).Spec
      (fun p' l' t => writeOk p' t = true ∧ Kept s t ∧ t.cnt.toNat ≤ 8 ∧ KeptLocals l l' ∧
        writeLeft t.cnt.toNat p' < writeLeft s.cnt.toNat p)
      (fun r l' t => boundaryOk t = true ∧ t.sclPort = false ∧ Kept s t ∧ t.cnt.toNat ≤ 8 ∧ KeptLocals l l' ∧ l'.s = r ∧
        (r = .ok ∨ r = .slaveNack) ∧ writeLeft s.cnt.toNat p = 1)
      (s.envSclLow = true) False := by
  cases p
  case data x =>
    refine callStep_spec (xferStep_spec (low := true) (n := 8) (by decide) (by decide) hc8 h) ?_ ?_ ?_ ?_
    · rintro p' l' t ⟨h1, h2, h3, h4, -, -, h5⟩
      exact ⟨h1, h2, h3, h4, by simpa [writeLeft] using h5⟩
    · rintro r l' t ⟨h1, h2, h3, h4, h5, -, -, h6⟩
      refine ⟨by simp [writeOk, h1, h2], h3, h4, h5, ?_⟩
      have h6' : xferLeft 8 s.cnt.toNat x = 1 := h6
      simp [writeLeft, h6']
    · exact fun hh => hh.1
    · rintro ⟨h1, -⟩; cases h1
  case ack x =>
    refine callStep_spec (xferStep_spec (low := true) (n := 1) (by decide) (by decide) hc8 h) ?_ ?_ ?_ ?_
    · rintro p' l' t ⟨h1, h2, h3, h4, -, -, h5⟩
      exact ⟨h1, h2, h3, h4, by simpa [writeLeft] using h5⟩
    · rintro r l' t ⟨h1, h2, h3, h4, h5, -, -, h6⟩
      refine ⟨h1, h2, h3, h4, h5, rfl, ?_, h6⟩
      unfold ackStatus; split <;> simp
    · exact fun hh => hh.1
    · rintro ⟨h1, -⟩; cases h1
  all_goals
    simp [writeOk, boundaryOk_iff] at h
    refine ⟨?_, by constructor <;> simp, by simpa using hc8, ⟨rfl, rfl, rfl⟩, by simp [writeLeft, xferLeft]⟩
    simp [writeOk, boundaryOk, lineOk, xferOk, h]

end Sys2Proof.Machine
end

