-- ==== Sys2Proof/Laws/Commands.lean ====
section
/-! SUPPORT. What one step of a command can do from the drivers of its position, once for all eight: hold, go on at a
position of the same command with fewer steps left, finish, or hang on its own clock. -/

namespace Sys2Proof.Machine

open Sys2Proof

/-- The command goes on: the latched word stays, the new position's drivers hold, and there are fewer steps left. -/
structure GoesOn (low : Bool) (i : Instr) (q : Sequencer) (s t : State) (r : Sequencer) : Prop where
  seq : t.seq = some r
  curCmd : r.curCmd = q.curCmd
  ok : posOk low i r t = true
  less : stepsLeft i r t < stepsLeft i q s
  cnt : t.cnt.toNat ≤ 8
  cfg : t.cfg = true ∨ (t.cfg = s.cfg ∧ q.pos ≠ .init)
  busy : t.busy = s.busy
  code : t.code = s.code
  buf : Memory.wf s.buf = true → Memory.wf t.buf = true
  env : t.envSclLow = s.envSclLow

/-- The outcomes of a step of the command `i` from the position of `q`. -/
def ExecSpec (low : Bool) (i : Instr) (q : Sequencer) (s : State) : Host.Outcome State Fault Refusal → Prop
  | .next t =>
    (t = s ∧ s.envSclLow = true) ∨ (∃ r, GoesOn low i q s t r) ∨
      (q.pos = .finish ∧ boundaryOk s = true ∧ ∃ st rx, t = finish st rx s ∧ mayFinish i st = true)
  | .fault f =>
    f = .hangOwnClock ∧ low = false ∧ atWait q.pos = true ∧ sclPulled s = true ∧
      ((∃ n, i = .transfer n) ∨ ∃ more, i = .readByte more)
  | .refused _ => False

/-- The fields a command's step, other than its `finish`, leaves as they are; BUF keeps its canonical form. -/
structure CmdKept (s t : State) : Prop where
  cfg : t.cfg = s.cfg
  busy : t.busy = s.busy
  code : t.code = s.code
  buf : Memory.wf s.buf = true → Memory.wf t.buf = true
  envScl : t.envSclLow = s.envSclLow

theorem Kept.cmd {s t : State} (h : Kept s t) : CmdKept s t where
  cfg := h.cfg
  busy := h.busy
  code := h.code
  buf := fun hb => by rw [h.buf]; exact hb
  envScl := h.envScl

/-- A command goes on after a procedure's step that kept the shared fields. -/
theorem goesOn_goTo {low : Bool} {i : Instr} {q : Sequencer} {s u : State} {p : Pos} {l : Locals} (hi : q.pos ≠ .init)
    (hk : CmdKept s u) (hc : u.cnt.toNat ≤ 8) (hok : posOk low i { q with pos := p, loc := l } (goTo q p l u) = true)
    (hl : stepsLeft i { q with pos := p, loc := l } (goTo q p l u) < stepsLeft i q s) :
    GoesOn low i q s (goTo q p l u) { q with pos := p, loc := l } where
  seq := rfl
  curCmd := rfl
  ok := hok
  less := hl
  cnt := hc
  cfg := .inr ⟨hk.cfg, hi⟩
  busy := hk.busy
  code := hk.code
  buf := hk.buf
  env := hk.envScl

/-- A procedure's step as a command's step: from the procedure's spec to the command's. -/
theorem runStep_spec {π ρ : Type} {low : Bool} {i : Instr} {q : Sequencer} {s : State} {inj : π → Pos}
    {k : ρ → Locals → State → Host.Outcome State Fault Refusal} {x : ProcStep π ρ} {G : π → Locals → State → Prop}
    {R : ρ → Locals → State → Prop} {H U : Prop} (hx : x.Spec G R H U)
    (hG : ∀ p l u, G p l u → GoesOn low i q s (goTo q (inj p) l u) { q with pos := inj p, loc := l })
    (hR : ∀ r l u, R r l u → ExecSpec low i q s (k r l u)) (hH : H → s.envSclLow = true)
    (hU : U → ExecSpec low i q s (.fault .hangOwnClock)) : ExecSpec low i q s (runStep s q inj k x) := by
  cases x with
  | goto p l u => exact .inr (.inl ⟨_, hG p l u hx⟩)
  | ret r l u => exact hR r l u hx
  | held => exact .inl ⟨rfl, hH hx⟩
  | hung => exact hU hx

theorem goTo_next {low : Bool} {i : Instr} {q : Sequencer} {s u : State} {p : Pos} {l : Locals} (hi : q.pos ≠ .init)
    (hk : CmdKept s u) (hc : u.cnt.toNat ≤ 8) (hok : posOk low i { q with pos := p, loc := l } (goTo q p l u) = true)
    (hl : stepsLeft i { q with pos := p, loc := l } (goTo q p l u) < stepsLeft i q s) :
    ExecSpec low i q s (.next (goTo q p l u)) := .inr (.inl ⟨_, goesOn_goTo hi hk hc hok hl⟩)

section

variable {low : Bool} {q : Sequencer} {s : State}

theorem execInit_spec (hs : s.seq = some q) (h : posOk low .init q s = true) :
    ExecSpec low .init q s (execInit s) := by
  obtain ⟨w, p, l⟩ := q
  rw [execInit, withSeq_some _ hs]
  cases p <;> try (simp [posOk] at h; done)
  case init =>
    refine .inr (.inl ⟨{ curCmd := w, pos := .finish, loc := l }, rfl, rfl, ?_, ?_, ?_, .inl rfl, ?_, ?_, ?_, ?_⟩)
    · simp [posOk, boundaryOk, lineOk]
    · simp [stepsLeft]
    all_goals simp
  case finish =>
    simp [posOk] at h
    exact .inr (.inr ⟨rfl, h.1, _, _, rfl, rfl⟩)

theorem execStart_spec (hs : s.seq = some q) (hc : s.cnt.toNat ≤ 8) (h : posOk low .start q s = true) :
    ExecSpec low .start q s (execStart s) := by
  obtain ⟨w, p, l⟩ := q
  rw [execStart, withSeq_some _ hs]
  cases p <;> try (simp [posOk] at h; done)
  case start p =>
    refine runStep_spec (startStep_spec h) ?_ ?_ (by simp) (by simp)
    · rintro p' l' t ⟨h1, h2, h3, h4, h5⟩
      refine goesOn_goTo (by simp) h2.cmd (h3 ▸ hc) h1 (by simpa [stepsLeft] using h5)
    · rintro r l' t ⟨h1, h2, h3, h4, h5, h6, h7, -⟩
      refine goTo_next (by simp) h2.cmd (h3 ▸ hc) ?_ (by simpa [stepsLeft] using h7)
      simp [posOk, h5, h6]; exact h1
  case finish =>
    simp [posOk] at h
    exact .inr (.inr ⟨rfl, h.1, _, _, rfl, h.2⟩)

theorem execStop_spec (hs : s.seq = some q) (hc : s.cnt.toNat ≤ 8) (h : posOk low .stop q s = true) :
    ExecSpec low .stop q s (execStop s) := by
  obtain ⟨w, p, l⟩ := q
  rw [execStop, withSeq_some _ hs]
  cases p <;> try (simp [posOk] at h; done)
  case stop p =>
    refine runStep_spec (stopStep_spec h) ?_ ?_ id (by simp)
    · rintro p' l' t ⟨h1, h2, h3, h4, h5⟩
      exact goesOn_goTo (by simp) h2.cmd (h3 ▸ hc) h1 (by simpa [stepsLeft] using h5)
    · rintro r l' t ⟨h1, h2, h3, h4, h5, h6, h7, h8⟩
      refine goTo_next (by simp) h3.cmd (h4 ▸ hc) ?_ (by simpa [stepsLeft] using h8)
      simp [posOk, h6, h7, h2]; exact h1
  case finish =>
    simp [posOk] at h
    exact .inr (.inr ⟨rfl, h.1.1, _, _, rfl, h.2⟩)

theorem execTransfer_spec {n : BitVec 4} (hw : WellFormed (.transfer n)) (hs : s.seq = some q) (hc : s.cnt.toNat ≤ 8)
    (h : posOk low (.transfer n) q s = true) : ExecSpec low (.transfer n) q s (execTransfer n s) := by
  obtain ⟨w, p, l⟩ := q
  rw [execTransfer, if_pos hw, withSeq_some _ hs]
  simp [WellFormed, wellFormed] at hw
  cases p <;> try (simp [posOk] at h; done)
  case transfer p =>
    refine runStep_spec (xferStep_spec (by omega) hw.2 hc h) ?_ ?_ (fun hh => hh.1) ?_
    · rintro p' l' t ⟨h1, h2, h3, h4, -, -, h5⟩
      exact goesOn_goTo (by simp) h2.cmd h3 h1 (by simpa [stepsLeft] using h5)
    · rintro r l' t ⟨h1, h2, h3, h4, h5, -, -, h6⟩
      refine goTo_next (by simp) h3.cmd h4 ?_ (by simp [stepsLeft, h6])
      simp [posOk, h2]; exact h1
    · rintro ⟨rfl, rfl, h3⟩
      exact ⟨rfl, rfl, rfl, h3, .inl ⟨n, rfl⟩⟩
  case finish =>
    simp [posOk] at h
    exact .inr (.inr ⟨rfl, h.1, _, _, rfl, rfl⟩)

theorem execReadByte_spec {more : Bool} (hs : s.seq = some q) (hc : s.cnt.toNat ≤ 8)
    (h : posOk low (.readByte more) q s = true) : ExecSpec low (.readByte more) q s (execReadByte more s) := by
  obtain ⟨w, p, l⟩ := q
  rw [execReadByte, withSeq_some _ hs]
  cases p <;> try (simp [posOk] at h; done)
  case readByte p =>
    refine runStep_spec (readByteStep_spec hc h) ?_ ?_ id ?_
    · rintro p' l' t ⟨h1, h2, h3, h4, h5⟩
      exact goesOn_goTo (by simp) h2.cmd h3 h1 (by simpa [stepsLeft] using h5)
    · rintro r l' t ⟨h1, h2, h3, h4, h5, h6⟩
      refine goTo_next (by simp) h3.cmd h4 ?_ (by simp [stepsLeft, h6])
      simp [posOk, h2]; exact h1
    · rintro ⟨rfl, rfl, h3⟩
      exact ⟨rfl, rfl, rfl, h3, .inr ⟨more, rfl⟩⟩
  case finish =>
    simp [posOk] at h
    exact .inr (.inr ⟨rfl, h.1, _, _, rfl, rfl⟩)

theorem execWriteByte_spec {v : Byte} (hs : s.seq = some q) (hc : s.cnt.toNat ≤ 8)
    (h : posOk low (.writeByte v) q s = true) : ExecSpec low (.writeByte v) q s (execWriteByte v s) := by
  obtain ⟨w, p, l⟩ := q
  rw [execWriteByte, withSeq_some _ hs]
  cases p <;> try (simp [posOk] at h; done)
  case writeByte p =>
    refine runStep_spec (writeByteStep_spec hc h) ?_ ?_ id (by simp)
    · rintro p' l' t ⟨h1, h2, h3, h4, h5⟩
      exact goesOn_goTo (by simp) h2.cmd h3 h1 (by simpa [stepsLeft] using h5)
    · rintro r l' t ⟨h1, h2, h3, h4, h5, h6, h7, h8⟩
      refine goTo_next (by simp) h3.cmd h4 ?_ (by simp [stepsLeft, h8])
      rcases h7 with rfl | rfl <;> simp [posOk, h2, h6, mayFinish, mayNack] <;> exact h1
  case finish =>
    simp [posOk] at h
    exact .inr (.inr ⟨rfl, h.1.1, _, _, rfl, h.2⟩)

end

/-! ## Transactions -/

section

variable {low : Bool} {i : Instr} {addr : BitVec 7} {stop : Bool} {count : BitVec 8} {q : Sequencer} {s u : State}

/-- `i` is a transaction of these operands. -/
def IsTxn (i : Instr) (addr : BitVec 7) (stop : Bool) (count : BitVec 8) : Prop :=
  i = .writeTxn addr stop count ∨ i = .readTxn addr stop count

/-- The positions both transactions share. -/
def sharedPos : Pos → Bool
  | .start _ | .addrByte _ | .stop _ | .finish => true
  | _ => false

theorem posOk_txn (hi : IsTxn i addr stop count) (hp : sharedPos q.pos = true) :
    posOk low i q s = txnPosOk i stop q s := by
  obtain ⟨w, p, l⟩ := q
  rcases hi with rfl | rfl <;> cases p <;> first | rfl | (simp [sharedPos] at hp)

theorem stepsLeft_txn (hi : IsTxn i addr stop count) (hp : sharedPos q.pos = true) :
    stepsLeft i q s = txnLeft i stop q s.cnt.toNat := by
  obtain ⟨w, p, l⟩ := q
  rcases hi with rfl | rfl <;> cases p <;> first | rfl | (simp [sharedPos] at hp)

theorem mayFinish_txn {st : Status} (hi : IsTxn i addr false count)
    (hst : mayFinish .start st = true ∨ st = .slaveNack) : mayFinish i st = true := by
  rcases hst with h | rfl
  · rcases hi with rfl | rfl <;> cases st <;> first | rfl | (simp [mayFinish, mayFailStop] at h)
  · rcases hi with rfl | rfl <;> rfl

theorem mayFinish_txn_stop {st : Status} (hi : IsTxn i addr true count) (hst : mayFinish .stop st = true) :
    mayFinish i st = true := by
  rcases hi with rfl | rfl <;> cases st <;>
    first | rfl | (simp [mayFinish, mayFailStart, mayNack] at hst)

/-- A transaction's loop leaves to its trailing Stop() or to `finish`. -/
theorem txnLeave_spec {st : Status} {l : Locals} (hi : IsTxn i addr stop count) (hp : q.pos ≠ .init)
    (hb : boundaryOk u = true) (hk : CmdKept s u) (hc : u.cnt.toNat ≤ 8)
    (hst : mayFinish .start st = true ∨ st = .slaveNack) (hl : endLeft stop < stepsLeft i q s) :
    ExecSpec low i q s (.next (txnLeave q stop st l u)) := by
  have hb' := boundaryOk_iff.1 hb
  cases stop with
  | true =>
    refine goTo_next hp hk hc ?_ (lt_of_eq_of_lt ?_ hl)
    · rw [posOk_txn hi rfl]; simp [txnPosOk, stopOk, lineOk, hb']
    · rw [stepsLeft_txn hi rfl]; rfl
  | false =>
    refine goTo_next hp hk hc ?_ (lt_of_eq_of_lt ?_ hl)
    · rw [posOk_txn hi rfl]; simp [txnPosOk, boundaryOk, lineOk, hb', mayFinish_txn hi hst]
    · rw [stepsLeft_txn hi rfl]; rfl

theorem txnStart_spec {p : StartPos} (hi : IsTxn i addr stop count) (hp : q.pos = .start p) (hc : s.cnt.toNat ≤ 8)
    (h : posOk low i q s = true) : ExecSpec low i q s (txnStart q stop p s) := by
  have hsh : sharedPos q.pos = true := by rw [hp]; rfl
  have hl : stepsLeft i q s =
      startLeft p + (Config.retryMax - q.loc.attempt) + 63 + payloadLeft i + endLeft stop := by
    rw [stepsLeft_txn hi hsh, txnLeft, hp]
  rw [posOk_txn hi hsh, txnPosOk, hp, Bool.and_eq_true] at h
  have hne : q.pos ≠ .init := by simp [hp]
  refine runStep_spec (startStep_spec h.1) ?_ ?_ (by simp) (by simp)
  · rintro p' l' t ⟨h1, h2, h3, ⟨h4, -, -⟩, h5⟩
    refine goesOn_goTo hne h2.cmd (h3 ▸ hc) ?_ ?_
    · rw [posOk_txn hi rfl]
      have ha : attemptOk l' = true := by simpa [attemptOk, h4] using h.2
      simp [txnPosOk, ha]; exact h1
    · rw [hl, stepsLeft_txn hi rfl]; simp [txnLeft, h4]; omega
  · rintro r l' t ⟨h1, h2, h3, ⟨h4, -, -⟩, h5, h6, h7, h8⟩
    have hb := boundaryOk_iff.1 h1
    have hleave : ExecSpec low i q s (.next (txnLeave q stop r l' t)) :=
      txnLeave_spec hi hne h1 h2.cmd (h3 ▸ hc) (.inl h6) (by rw [hl]; omega)
    simp only [txnAfterStart]
    split
    · rename_i htr
      split
      · rename_i ha
        have ha' := h.2
        simp only [attemptOk, Bool.and_eq_true, decide_eq_true_eq] at ha'
        obtain rfl := h8 htr
        refine goTo_next hne h2.cmd (h3 ▸ hc) ?_ ?_
        · rw [posOk_txn hi rfl]
          have ha2 : attemptOk { l' with status := r, attempt := l'.attempt + 1 } = true := by
            simp [attemptOk]; omega
          simp [txnPosOk, ha2, startOk, lineOk, hb]
        · rw [hl, stepsLeft_txn hi rfl]; simp [txnLeft, h4]; omega
      · exact hleave
    · split
      · refine goTo_next hne h2.cmd (h3 ▸ hc) ?_ ?_
        · rw [posOk_txn hi rfl]; simp [txnPosOk, writeOk, boundaryOk, lineOk, hb]
        · rw [hl, stepsLeft_txn hi rfl]; simp [txnLeft, writeLeft]; omega
      · exact hleave

theorem txnStop_spec {p : StopPos} (hi : IsTxn i addr stop count) (hp : q.pos = .stop p) (hc : s.cnt.toNat ≤ 8)
    (h : posOk low i q s = true) : ExecSpec low i q s (txnStop q p s) := by
  have hsh : sharedPos q.pos = true := by rw [hp]; rfl
  have hl : stepsLeft i q s = stopLeft p + 1 := by rw [stepsLeft_txn hi hsh, txnLeft, hp]
  rw [posOk_txn hi hsh, txnPosOk, hp, Bool.and_eq_true] at h
  obtain ⟨rfl, h⟩ := h
  have hne : q.pos ≠ .init := by simp [hp]
  refine runStep_spec (stopStep_spec h) ?_ ?_ id (by simp)
  · rintro p' l' t ⟨h1, h2, h3, h4, h5⟩
    refine goesOn_goTo hne h2.cmd (h3 ▸ hc) ?_ ?_
    · rw [posOk_txn hi rfl]; simp [txnPosOk]; exact h1
    · rw [hl, stepsLeft_txn hi rfl]; simpa [txnLeft] using h5
  · rintro r l' t ⟨h1, h2, h3, h4, h5, h6, h7, h8⟩
    refine goTo_next hne h3.cmd (h4 ▸ hc) ?_ ?_
    · rw [posOk_txn hi rfl]; simp [txnPosOk, mayFinish_txn_stop hi h7]; exact h1
    · rw [hl, stepsLeft_txn hi rfl]; simpa [txnLeft] using h8

/-- The address byte, where the payload's first position is one of the command's, with the whole payload left. -/
theorem txnAddress_spec {p : WritePos} {rw' : Bool} {first : Pos} (hi : IsTxn i addr stop count)
    (hp : q.pos = .addrByte p) (hc : s.cnt.toNat ≤ 8) (h : posOk low i q s = true)
    (hfirst : ∀ l t, boundaryOk t = true → t.sclPort = false → count ≠ 0 → l.i = 0 →
      posOk low i { q with pos := first, loc := l } t = true ∧
        stepsLeft i { q with pos := first, loc := l } t = payloadLeft i + endLeft stop) :
    ExecSpec low i q s (txnAddress q addr rw' stop count first p s) := by
  have hsh : sharedPos q.pos = true := by rw [hp]; rfl
  have hl : stepsLeft i q s = writeLeft s.cnt.toNat p + payloadLeft i + endLeft stop := by
    rw [stepsLeft_txn hi hsh, txnLeft, hp]
  rw [posOk_txn hi hsh, txnPosOk, hp] at h
  have hne : q.pos ≠ .init := by simp [hp]
  refine runStep_spec (writeByteStep_spec hc h) ?_ ?_ id (by simp)
  · rintro p' l' t ⟨h1, h2, h3, h4, h5⟩
    refine goesOn_goTo hne h2.cmd h3 ?_ ?_
    · rw [posOk_txn hi rfl]; exact h1
    · rw [hl, stepsLeft_txn hi rfl]; simp [txnLeft]; omega
  · rintro r l' t ⟨h1, h2, h3, h4, h5, h6, h7, h8⟩
    split
    · split
      · exact txnLeave_spec hi hne h1 h3.cmd h4 (.inl rfl) (by rw [hl]; omega)
      · rename_i hz
        obtain ⟨f1, f2⟩ := hfirst { l' with i := 0 } (goTo q first { l' with i := 0 } t) h1 h2 hz rfl
        exact goTo_next hne h3.cmd h4 f1 (by rw [f2, hl]; omega)
    · rename_i hr
      refine txnLeave_spec hi hne h1 h3.cmd h4 ?_ (by rw [hl]; omega)
      rcases h7 with rfl | rfl
      · exact absurd rfl hr
      · exact .inr rfl

/-- A payload byte is done: the next one, or the end of the loop. -/
theorem txnNextByte_spec {l : Locals} {first : Pos} (hi : IsTxn i addr stop count) (hne : q.pos ≠ .init)
    (hb : boundaryOk u = true) (hk : CmdKept s u) (hc : u.cnt.toNat ≤ 8) (hl : endLeft stop < stepsLeft i q s)
    (hfirst : l.i.toNat + 1 < count.toNat →
      posOk low i { q with pos := first, loc := { l with i := l.i + 1 } } (goTo q first { l with i := l.i + 1 } u) = true ∧
        stepsLeft i { q with pos := first, loc := { l with i := l.i + 1 } } (goTo q first { l with i := l.i + 1 } u) <
          stepsLeft i q s) :
    ExecSpec low i q s (.next (txnNextByte q stop count first l u)) := by
  unfold txnNextByte
  split
  · rename_i hm
    have h := hfirst (by simpa only [moreBytes, decide_eq_true_eq] using hm)
    exact goTo_next hne hk hc h.1 h.2
  · exact txnLeave_spec hi hne hb hk hc (.inl rfl) hl

theorem toNat_add_one {x c : BitVec 8} (h : x.toNat + 1 < c.toNat) : (x + 1).toNat = x.toNat + 1 := by
  have := c.isLt
  bv_omega

theorem execWriteTxn_spec (hs : s.seq = some q) (hc : s.cnt.toNat ≤ 8)
    (h : posOk low (.writeTxn addr stop count) q s = true) :
    ExecSpec low (.writeTxn addr stop count) q s (execWriteTxn addr stop count s) := by
  have hi : IsTxn (.writeTxn addr stop count) addr stop count := .inl rfl
  rw [execWriteTxn, withSeq_some _ hs]
  obtain ⟨w, p, l⟩ := q
  cases p <;> try (simp [posOk, txnPosOk] at h; done)
  case start p => exact txnStart_spec hi rfl hc h
  case addrByte p =>
    refine txnAddress_spec hi rfl hc h fun l t h1 h2 h3 h4 => ?_
    have h5 : 0 < count.toNat := by
      rcases Nat.eq_zero_or_pos count.toNat with h | h
      · exact absurd (BitVec.eq_of_toNat_eq h) h3
      · exact h
    refine ⟨by simp [posOk, writeOk, h1, h4, h5], ?_⟩
    simp [stepsLeft, writeLeft, payloadLeft, h4]; omega
  case writeByte p =>
    simp only [posOk, Bool.and_eq_true, decide_eq_true_eq] at h
    refine runStep_spec (writeByteStep_spec hc h.1) ?_ ?_ id (by simp)
    · rintro p' l' t ⟨h1, h2, h3, ⟨-, h4, -⟩, h5⟩
      refine goesOn_goTo (by simp) h2.cmd h3 ?_ ?_
      · simp [posOk, h4, h.2]; exact h1
      · simp [stepsLeft, h4]; omega
    · rintro r l' t ⟨h1, h2, h3, h4, ⟨-, h5, -⟩, h6, h7, h8⟩
      have hq : stepsLeft (.writeTxn addr stop count) { curCmd := w, pos := .writeByte p, loc := l } s =
          1 + 63 * (count.toNat - 1 - l.i.toNat) + endLeft stop := by simp only [stepsLeft, h8]
      have hl : endLeft stop < stepsLeft (.writeTxn addr stop count) { curCmd := w, pos := .writeByte p, loc := l } s := by
        omega
      split
      · refine txnNextByte_spec hi (by simp) h1 h3.cmd h4 hl fun h9 => ?_
        have h10 := toNat_add_one h9
        refine ⟨?_, ?_⟩
        · simp only [posOk, writeOk, h10, Bool.and_eq_true, decide_eq_true_eq]; exact ⟨h1, h9⟩
        · rw [hq]
          simp only [stepsLeft, writeLeft, h10]
          have h11 : l'.i.toNat = l.i.toNat := by rw [h5]
          omega
      · rename_i hr
        refine txnLeave_spec hi (by simp) h1 h3.cmd h4 ?_ hl
        rcases h7 with rfl | rfl
        · exact absurd rfl hr
        · exact .inr rfl
  case stop p => exact txnStop_spec hi rfl hc h
  case finish =>
    rw [posOk_txn hi rfl] at h
    simp [txnPosOk] at h
    exact .inr (.inr ⟨rfl, h.1, _, _, rfl, h.2⟩)

theorem execReadTxn_spec (hw : WellFormed (.readTxn addr stop count)) (hs : s.seq = some q) (hc : s.cnt.toNat ≤ 8)
    (h : posOk low (.readTxn addr stop count) q s = true) :
    ExecSpec low (.readTxn addr stop count) q s (execReadTxn addr stop count s) := by
  have hi : IsTxn (.readTxn addr stop count) addr stop count := .inr rfl
  rw [execReadTxn, if_pos hw, withSeq_some _ hs]
  obtain ⟨w, p, l⟩ := q
  cases p <;> try (simp [posOk, txnPosOk] at h; done)
  case start p => exact txnStart_spec hi rfl hc h
  case addrByte p =>
    refine txnAddress_spec hi rfl hc h fun l t h1 h2 h3 h4 => ?_
    have h5 : 0 < count.toNat := by
      rcases Nat.eq_zero_or_pos count.toNat with h | h
      · exact absurd (BitVec.eq_of_toNat_eq h) h3
      · exact h
    refine ⟨by simp [posOk, readOk, h1, h2, h4, h5], ?_⟩
    simp [stepsLeft, readLeft, payloadLeft, h4]; omega
  case readByte p =>
    simp only [posOk, Bool.and_eq_true, decide_eq_true_eq] at h
    refine runStep_spec (readByteStep_spec (low := true) hc h.1) ?_ ?_ id (by simp)
    · rintro p' l' t ⟨h1, h2, h3, ⟨-, h4, -⟩, h5⟩
      refine goesOn_goTo (by simp) h2.cmd h3 ?_ ?_
      · simp [posOk, h4, h.2]; exact h1
      · simp [stepsLeft, h4]; omega
    · rintro r l' t ⟨h1, h2, h3, h4, ⟨-, h5, -⟩, h6⟩
      refine goTo_next (by simp) h3.cmd h4 ?_ ?_
      · simp [posOk, h2, h5, h.2]; exact h1
      · simp [stepsLeft, h5, h6]
  case store =>
    simp only [posOk, Bool.and_eq_true, decide_eq_true_eq] at h
    have hq : stepsLeft (.readTxn addr stop count) { curCmd := w, pos := .store, loc := l } s =
        1 + 64 * (count.toNat - 1 - l.i.toNat) + endLeft stop := rfl
    have hk : CmdKept s (micro (bufWrite l.i l.b) s) :=
      ⟨by simp, by simp, by simp, fun hb => by simpa using wf_bufInsert l.i l.b hb, by simp⟩
    have hb : boundaryOk (micro (bufWrite l.i l.b) s) = true := by simpa [boundaryOk, lineOk] using h.1.1
    refine txnNextByte_spec hi (by simp) hb hk (by simpa using hc) (by rw [hq]; omega) fun h9 => ?_
    have h10 := toNat_add_one h9
    refine ⟨?_, ?_⟩
    · simp only [posOk, readOk, h10, Bool.and_eq_true, decide_eq_true_eq, Bool.not_true, Bool.false_or]
      exact ⟨⟨hb, by simpa using h.1.2⟩, h9⟩
    · have h2 := h.2
      change l.i.toNat < count.toNat at h2
      change l.i.toNat + 1 < count.toNat at h9
      change (l.i + 1).toNat = l.i.toNat + 1 at h10
      rw [hq]; simp only [stepsLeft, readLeft]; omega
  case stop p => exact txnStop_spec hi rfl hc h
  case finish =>
    rw [posOk_txn hi rfl] at h
    simp [txnPosOk] at h
    exact .inr (.inr ⟨rfl, h.1, _, _, rfl, h.2⟩)

/-- One step of a running command from the drivers of its position: whatever the command, it is held by the peer, goes
on with fewer steps left, finishes at a command boundary, or hangs on its own clock. -/
theorem exec_spec (hw : WellFormed i) (hs : s.seq = some q) (hc : s.cnt.toNat ≤ 8) (h : posOk low i q s = true) :
    ExecSpec low i q s (exec i s) := by
  cases i with
  | init => exact execInit_spec hs h
  | start => exact execStart_spec hs hc h
  | stop => exact execStop_spec hs hc h
  | transfer n => exact execTransfer_spec hw hs hc h
  | readByte more => exact execReadByte_spec hs hc h
  | writeByte v => exact execWriteByte_spec hs hc h
  | writeTxn a st n => exact execWriteTxn_spec hs hc h
  | readTxn a st n => exact execReadTxn_spec hw hs hc h

end

end Sys2Proof.Machine
end

