-- ==== Sys2Proof/Laws/Effects.lean ====
section
/-! SUPPORT. Everything one step of a command can do, from any state: it is held, it finishes, or it makes one of a dozen
kinds of writes, each at its own positions, and moves on (`exec_next`). -/

namespace Sys2Proof.Machine

open Sys2Proof

/-- The positions within a Transfer or a byte procedure. -/
def atByte : Pos → Bool
  | .transfer _ | .readByte _ | .writeByte _ | .addrByte _ => true
  | .init | .start _ | .stop _ | .store | .finish => false

/-- The positions of a START or STOP procedure. -/
def atCondition : Pos → Bool
  | .start _ | .stop _ => true
  | .init | .transfer _ | .readByte _ | .writeByte _ | .addrByte _ | .store | .finish => false

/-- The positions at which the data line is turned to input. -/
def atDirIn : Pos → Bool
  | .readByte .dirIn | .writeByte .dirIn | .addrByte .dirIn => true
  | _ => false

/-- The positions a command can stand at. -/
def ownPos (i : Instr) (p : Pos) : Bool :=
  match i, p with
  | _, .finish => true
  | .init, .init => true
  | .start, .start _ => true
  | .stop, .stop _ => true
  | .transfer _, .transfer _ => true
  | .readByte _, .readByte _ => true
  | .writeByte _, .writeByte _ => true
  | .writeTxn _ _ _, .start _ | .writeTxn _ _ _, .addrByte _ | .writeTxn _ _ _, .writeByte _ => true
  | .writeTxn _ _ _, .stop _ => true
  | .readTxn _ _ _, .start _ | .readTxn _ _ _, .addrByte _ | .readTxn _ _ _, .readByte _ => true
  | .readTxn _ _ _, .store | .readTxn _ _ _, .stop _ => true
  | _, _ => false

/-- The writes of one (µ) step taken at the position of `q`, from `s` to `u`. -/
inductive MicroEffect (q : Sequencer) (s : State) : State → Prop where
  | still : MicroEffect q s s
  | init : q.pos = .init → MicroEffect q s (initFlags (micro initLines s))
  | preload (n : BitVec 4) : atPreload q.pos = true → MicroEffect q s (preloadFlags n s)
  | stopVerify : q.pos = .stop .verify → MicroEffect q s (clearStopFlag s)
  | sclPort (v : Bool) : MicroEffect q s (micro (setSclPort v) s)
  | toggle : atByte q.pos = true → MicroEffect q s (micro toggleScl s)
  | sdaPort (v : Bool) : atCondition q.pos = true → MicroEffect q s (micro (setSdaPort v) s)
  | sdaIn : atDirIn q.pos = true → MicroEffect q s (micro (setSdaDir false) s)
  | sdaOut : atByte q.pos = true → MicroEffect q s (micro (setSdaDir true) s)
  | loadSR (v : Byte) : atByte q.pos = true → MicroEffect q s (micro (loadSR v) s)
  | sample : atByte q.pos = true → MicroEffect q s { s with latch := sdaLevel s }
  | shift : atByte q.pos = true → MicroEffect q s (micro shiftAndCount s)
  | store : q.pos = .store → MicroEffect q s (bufWrite q.loc.i q.loc.b s)

theorem startStep_effect {q : Sequencer} {s : State} (p : StartPos) (l : Locals) (h : q.pos = .start p) :
    (startStep p l s).All fun _ u => MicroEffect q s u := by
  cases p
  case check => simp only [startStep]; split <;> simp [ProcStep.All, MicroEffect.still]
  all_goals simp only [startStep, ProcStep.All, micro_delay, micro_id]
  all_goals first
    | exact .still
    | exact .sclPort _
    | exact .sdaPort _ (by rw [h]; rfl)

theorem stopStep_effect {q : Sequencer} {s : State} (p : StopPos) (l : Locals) (h : q.pos = .stop p) :
    (stopStep p l s).All fun _ u => MicroEffect q s u := by
  cases p
  case waitHigh => simp only [stopStep]; split <;> simp [ProcStep.All, MicroEffect.still]
  all_goals simp only [stopStep, ProcStep.All, micro_delay, micro_id]
  all_goals first
    | exact .still
    | exact .sclPort _
    | exact .sdaPort _ (by rw [h]; rfl)
    | exact .stopVerify h

theorem xferStep_effect {q : Sequencer} {s : State} (n : BitVec 4) (p : XferPos) (l : Locals) (h : atByte q.pos = true)
    (hp : p = .preload → atPreload q.pos = true) : (xferStep n p l s).All fun _ u => MicroEffect q s u := by
  cases p
  case sample =>
    simp only [xferStep]; split
    · simp only [ProcStep.All, micro_sample]; exact .sample h
    · trivial
    · trivial
  all_goals simp only [xferStep, ProcStep.All, micro_delay, micro_id]
  all_goals first
    | exact .still
    | exact .toggle h
    | exact .sdaOut h
    | exact .loadSR _ h
    | exact .shift h
    | exact .preload _ (hp rfl)

theorem readByteStep_effect {q : Sequencer} {s : State} (more : Bool) (p : ReadPos) (l : Locals)
    (h : q.pos = .readByte p) : (readByteStep more p l s).All fun _ u => MicroEffect q s u := by
  have hb : atByte q.pos = true := by rw [h]; rfl
  cases p
  case data x =>
    exact callStep_all (xferStep_effect 8 x l hb (by rintro rfl; rw [h]; rfl)) fun _ _ _ hu => hu
  case ack x =>
    exact callStep_all (xferStep_effect 1 x l hb (by rintro rfl; rw [h]; rfl)) fun _ _ _ hu => hu
  case dirIn => exact .sdaIn (by rw [h]; rfl)
  case dirOut => exact .sdaOut hb
  case loadAck => exact .loadSR _ hb

theorem writeByteStep_effect {q : Sequencer} {s : State} (v : Byte) (p : WritePos) (l : Locals)
    (h : q.pos = .writeByte p ∨ q.pos = .addrByte p) : (writeByteStep v p l s).All fun _ u => MicroEffect q s u := by
  have hb : atByte q.pos = true := by rcases h with h | h <;> (rw [h]; rfl)
  cases p
  case data x =>
    exact callStep_all (xferStep_effect 8 x l hb (by rintro rfl; rcases h with h | h <;> (rw [h]; rfl)))
      fun _ _ _ hu => hu
  case ack x =>
    exact callStep_all (xferStep_effect 1 x l hb (by rintro rfl; rcases h with h | h <;> (rw [h]; rfl)))
      fun _ _ _ hu => hu
  case clockLow => exact .sclPort _
  case dirIn => exact .sdaIn (by rcases h with h | h <;> (rw [h]; rfl))
  case load => exact .loadSR _ hb

/-- What a step of the command `i` from `s` to `t` can be. -/
def StepForm (i : Instr) (s t : State) : Prop :=
  ∃ q, s.seq = some q ∧ ownPos i q.pos = true ∧
    (t = s ∨
      (q.pos = .finish ∧ ∃ st rx, t = finish st rx s ∧
        (rx ≠ none → (∃ n, i = .transfer n) ∨ ∃ more, i = .readByte more)) ∨
      (q.pos ≠ .finish ∧ ∃ p l u, t = goTo q p l u ∧ MicroEffect q s u))

/-- A procedure's step that is run for a command, where its return moves on without another write. -/
theorem stepForm_run {π ρ : Type} {i : Instr} {s t : State} {q : Sequencer} {inj : π → Pos}
    {k : ρ → Locals → State → Host.Outcome State Fault Refusal} {x : ProcStep π ρ} (hs : s.seq = some q)
    (hp : ownPos i q.pos = true) (hf : q.pos ≠ .finish) (hx : x.All fun _ u => MicroEffect q s u)
    (hk : ∀ r l u t, k r l u = .next t → ∃ p l', t = goTo q p l' u) (h : runStep s q inj k x = .next t) :
    StepForm i s t := by
  refine ⟨q, hs, hp, ?_⟩
  rcases runStep_next h with ⟨p, l, u, rfl, rfl⟩ | ⟨r, l, u, rfl, h'⟩ | ⟨-, rfl⟩
  · exact .inr (.inr ⟨hf, _, _, _, rfl, hx⟩)
  · obtain ⟨p, l', rfl⟩ := hk _ _ _ _ h'
    exact .inr (.inr ⟨hf, _, _, _, rfl, hx⟩)
  · exact .inl rfl

theorem txnLeave_goTo (q : Sequencer) (stop : Bool) (st : Status) (l : Locals) (u : State) :
    ∃ p l', txnLeave q stop st l u = goTo q p l' u := ⟨_, _, rfl⟩

theorem txnAfterStart_goTo (q : Sequencer) (stop : Bool) (st : Status) (l : Locals) (u : State) :
    ∃ p l', txnAfterStart q stop st l u = goTo q p l' u := by
  unfold txnAfterStart txnLeave; repeat' split
  all_goals exact ⟨_, _, rfl⟩

theorem txnNextByte_goTo (q : Sequencer) (stop : Bool) (count : BitVec 8) (first : Pos) (l : Locals) (u : State) :
    ∃ p l', txnNextByte q stop count first l u = goTo q p l' u := by
  unfold txnNextByte txnLeave; split <;> exact ⟨_, _, rfl⟩

theorem txnStart_form {i : Instr} {s t : State} {q : Sequencer} {stop : Bool} {p : StartPos} (hs : s.seq = some q)
    (hp : q.pos = .start p) (ho : ownPos i q.pos = true) (h : txnStart q stop p s = .next t) : StepForm i s t := by
  refine stepForm_run hs ho (by simp [hp]) (startStep_effect p q.loc hp) (fun r l u t' hk => ?_) h
  cases hk
  exact txnAfterStart_goTo ..

theorem txnStop_form {i : Instr} {s t : State} {q : Sequencer} {p : StopPos} (hs : s.seq = some q)
    (hp : q.pos = .stop p) (ho : ownPos i q.pos = true) (h : txnStop q p s = .next t) : StepForm i s t := by
  refine stepForm_run hs ho (by simp [hp]) (stopStep_effect p q.loc hp) (fun r l u t' hk => ?_) h
  cases hk
  exact ⟨_, _, rfl⟩

theorem txnAddress_form {i : Instr} {s t : State} {q : Sequencer} {addr : BitVec 7} {rw' stop : Bool}
    {count : BitVec 8} {first : Pos} {p : WritePos} (hs : s.seq = some q) (hp : q.pos = .addrByte p)
    (ho : ownPos i q.pos = true) (h : txnAddress q addr rw' stop count first p s = .next t) : StepForm i s t := by
  refine stepForm_run hs ho (by simp [hp]) (writeByteStep_effect _ p q.loc (.inr hp)) (fun r l u t' hk => ?_) h
  cases hk
  unfold txnLeave; repeat' split
  all_goals exact ⟨_, _, rfl⟩

theorem stepForm_finish {i : Instr} {s : State} {q : Sequencer} (hs : s.seq = some q) (hp : q.pos = .finish)
    (st : Status) (rx : Option Byte) (hr : rx ≠ none → (∃ n, i = .transfer n) ∨ ∃ more, i = .readByte more) :
    StepForm i s (finish st rx s) :=
  ⟨q, hs, by rw [hp]; unfold ownPos; cases i <;> rfl, .inr (.inl ⟨hp, _, _, rfl, hr⟩)⟩

/-- Everything a step of a command can do, from any state. -/
theorem exec_next {i : Instr} {s t : State} (h : exec i s = .next t) : StepForm i s t := by
  cases i with
  | init =>
    obtain ⟨⟨w, p, l⟩, hs, h⟩ := withSeq_next h
    cases p <;> try (simp at h; done)
    · cases h
      exact ⟨_, hs, rfl, .inr (.inr ⟨by simp, _, _, _, rfl, .init rfl⟩)⟩
    · cases h
      exact stepForm_finish hs rfl _ _ (by simp)
  | start =>
    obtain ⟨⟨w, p, l⟩, hs, h⟩ := withSeq_next h
    cases p <;> try (simp at h; done)
    · exact stepForm_run hs rfl (by simp) (startStep_effect _ _ rfl) (fun _ _ _ _ hk => by cases hk; exact ⟨_, _, rfl⟩) h
    · cases h
      exact stepForm_finish hs rfl _ _ (by simp)
  | stop =>
    obtain ⟨⟨w, p, l⟩, hs, h⟩ := withSeq_next h
    cases p <;> try (simp at h; done)
    · exact stepForm_run hs rfl (by simp) (stopStep_effect _ _ rfl) (fun _ _ _ _ hk => by cases hk; exact ⟨_, _, rfl⟩) h
    · cases h
      exact stepForm_finish hs rfl _ _ (by simp)
  | transfer n =>
    simp only [exec, execTransfer] at h
    split at h
    · obtain ⟨⟨w, p, l⟩, hs, h⟩ := withSeq_next h
      cases p <;> try (simp at h; done)
      · exact stepForm_run hs rfl (by simp) (xferStep_effect _ _ _ rfl (by rintro rfl; rfl))
          (fun _ _ _ _ hk => by cases hk; exact ⟨_, _, rfl⟩) h
      · cases h
        exact stepForm_finish hs rfl _ _ fun _ => .inl ⟨_, rfl⟩
    · cases h
  | readByte more =>
    obtain ⟨⟨w, p, l⟩, hs, h⟩ := withSeq_next h
    cases p <;> try (simp at h; done)
    · exact stepForm_run hs rfl (by simp) (readByteStep_effect _ _ _ rfl)
        (fun _ _ _ _ hk => by cases hk; exact ⟨_, _, rfl⟩) h
    · cases h
      exact stepForm_finish hs rfl _ _ fun _ => .inr ⟨_, rfl⟩
  | writeByte v =>
    obtain ⟨⟨w, p, l⟩, hs, h⟩ := withSeq_next h
    cases p <;> try (simp at h; done)
    · exact stepForm_run hs rfl (by simp) (writeByteStep_effect _ _ _ (.inl rfl))
        (fun _ _ _ _ hk => by cases hk; exact ⟨_, _, rfl⟩) h
    · cases h
      exact stepForm_finish hs rfl _ _ (by simp)
  | writeTxn addr stop count =>
    obtain ⟨⟨w, p, l⟩, hs, h⟩ := withSeq_next h
    cases p <;> try (simp at h; done)
    · exact txnStart_form hs rfl rfl h
    · exact txnStop_form hs rfl rfl h
    · refine stepForm_run hs rfl (by simp) (writeByteStep_effect _ _ _ (.inl rfl)) (fun _ _ _ _ hk => ?_) h
      cases hk
      split
      · exact txnNextByte_goTo ..
      · exact txnLeave_goTo ..
    · exact txnAddress_form hs rfl rfl h
    · cases h
      exact stepForm_finish hs rfl _ _ (by simp)
  | readTxn addr stop count =>
    simp only [exec, execReadTxn] at h
    split at h
    · obtain ⟨⟨w, p, l⟩, hs, h⟩ := withSeq_next h
      cases p <;> try (simp at h; done)
      · exact txnStart_form hs rfl rfl h
      · exact txnStop_form hs rfl rfl h
      · exact stepForm_run hs rfl (by simp) (readByteStep_effect _ _ _ rfl)
          (fun _ _ _ _ hk => by cases hk; exact ⟨_, _, rfl⟩) h
      · exact txnAddress_form hs rfl rfl h
      · cases h
        obtain ⟨p, l', h'⟩ := txnNextByte_goTo { curCmd := w, pos := .store, loc := l } stop count (.readByte .dirIn) l
          (micro (bufWrite l.i l.b) s)
        refine ⟨_, hs, rfl, .inr (.inr ⟨by simp, p, l', _, h', ?_⟩)⟩
        rw [micro_bufWrite]
        exact .store rfl
      · cases h
        exact stepForm_finish hs rfl _ _ (by simp)
    · cases h

end Sys2Proof.Machine
end

