-- ==== Sys2Proof/Laws/Step.lean ====
section
/-! SUPPORT. Everything one step of the system can do (`step_next`): the engine's turn, the host's accesses
(`hostAccess_next`), the environment's and reset's steps; and that the invariant's positions read the drivers and the
countdown alone. -/

namespace Sys2Proof.Machine

open Sys2Proof

/-- What a host access that is not refused can leave. -/
theorem hostAccess_next {a : Access} {s t : State} (h : hostAccess a s = .next t) :
    (∃ v d, t = { s with hostData := v, draws := d }) ∨ t = s ∨
      (∃ w i, s.busy = false ∧ decode w = .ok i ∧ (s.cfg = true ∨ i = .init) ∧ t = issue w i s) ∨
      (∃ i v, s.busy = false ∧ t = bufWrite i v s) := by
  cases a with
  | read off width =>
    simp only [hostAccess] at h
    split at h
    · rename_i r _
      cases h
      left
      cases r <;> try exact ⟨_, s.draws, rfl⟩
      simp only [hostRead]; split
      · exact ⟨_, _, rfl⟩
      · exact ⟨_, s.draws, rfl⟩
    · cases h
  | write off width w =>
    simp only [hostAccess] at h
    split at h
    · rename_i r _
      cases r <;> simp only [hostWrite] at h
      case cmd =>
        simp only [cmdWrite] at h
        split at h
        · cases h
        · rename_i hb
          split at h
          · cases h
          · rename_i i hd
            split at h
            · cases h
            · rename_i hc
              cases h
              refine .inr (.inr (.inl ⟨w, i, by simpa using hb, hd, ?_, rfl⟩))
              cases hcfg : s.cfg
              · right; simpa [hcfg] using hc
              · exact .inl rfl
      case buf =>
        split at h
        · cases h
        · rename_i hb
          cases h
          exact .inr (.inr (.inr ⟨_, _, by simpa using hb, by rw [micro_bufWrite]⟩))
      all_goals
        cases h
        exact .inr (.inl rfl)
    · cases h

/-- The engine's turn: nothing to do, or a step of the command its latched word decodes to. -/
theorem engineTurn_next {s t : State} (h : engineTurn s = .next t) :
    (s.busy = false ∧ t = s) ∨
      ∃ q i, s.busy = true ∧ s.seq = some q ∧ decode q.curCmd = .ok i ∧ exec i s = .next t := by
  simp only [engineTurn] at h
  split at h
  · rename_i hb
    split at h
    · cases h
    · rename_i q hq
      split at h
      · cases h
      · rename_i i hd
        exact .inr ⟨q, i, hb, hq, hd, h⟩
  · rename_i hb
    cases h
    exact .inl ⟨by simpa using hb, rfl⟩

/-- Everything a step of the system can be, with `s'` the state `s` with the step taken off the agenda. -/
theorem step_next {s t : State} (h : step s = .next t) :
    ∃ s', s' = { s with agenda := s.agenda.tail } ∧
      (((s.agenda = [] ∨ ∃ rest, s.agenda = .engine :: rest) ∧ engineTurn s' = .next t) ∨
        (∃ line low rest, s.agenda = .env line low :: rest ∧ t = envStep line low s') ∨
        (∃ a rest, s.agenda = .host a :: rest ∧ hostAccess a s' = .next t) ∨
        (∃ rest, s.agenda = .reset :: rest ∧ t = resetStep s')) := by
  refine ⟨_, rfl, ?_⟩
  simp only [step, nextStep] at h
  split at h
  · rename_i ha
    refine .inl ⟨.inl ha, ?_⟩
    rw [ha, List.tail_nil, ← ha]; exact h
  · rename_i e rest ha
    rw [ha, List.tail_cons]
    cases e with
    | engine => exact .inl ⟨.inr ⟨rest, rfl⟩, h⟩
    | env line low =>
      cases h
      exact .inr (.inl ⟨line, low, rest, rfl, rfl⟩)
    | host a => exact .inr (.inr (.inl ⟨a, rest, rfl, h⟩))
    | reset =>
      cases h
      exact .inr (.inr (.inr ⟨rest, rfl, rfl⟩))

/-- The engine's drivers and countdown, all other fields at their reset values. -/
def driversOf (s : State) : State :=
  { State.reset with
    sclDir := s.sclDir, sclPort := s.sclPort, sdaDir := s.sdaDir, sdaPort := s.sdaPort, sr := s.sr, cnt := s.cnt,
    oif := s.oif }

/-- The drivers of a position are read off the drivers and the countdown alone. -/
theorem posOk_drivers (low : Bool) (i : Instr) (q : Sequencer) (s : State) :
    posOk low i q s = posOk low i q (driversOf s) := by
  obtain ⟨w, p, l⟩ := q
  cases i <;> cases p <;> rfl

theorem posOk_congr {low : Bool} {i : Instr} {q : Sequencer} {s t : State} (h : driversOf t = driversOf s) :
    posOk low i q t = posOk low i q s := by rw [posOk_drivers, h, ← posOk_drivers]

/-- A position that holds with the clock issued low holds without that knowledge. -/
theorem posOk_weaken {low : Bool} {i : Instr} {q : Sequencer} {s : State} (h : posOk low i q s = true) :
    posOk false i q s = true := by
  cases low
  · exact h
  · obtain ⟨w, p, l⟩ := q
    cases i <;> cases p <;> try exact h
    · rename_i n x
      cases x <;> simp [posOk, xferOk] at h ⊢ <;> simp [h]
    · rename_i more x
      cases x <;> try exact h
      · simp [posOk, readOk] at h ⊢; simp [h]
      · rename_i x
        cases x <;> simp [posOk, readOk, xferOk] at h ⊢ <;> simp [h]

end Sys2Proof.Machine
end

