-- ==== Sys2Proof/Laws/Host.lean ====
section
/-! SUPPORT. What the host's accesses and sequences do, once: the register at each offset, the fields of STATUS, the
pseudo-instructions of 30_encoding.md R88, and that a WAIT which returns found BUSY = 0. -/

namespace Sys2Proof.Machine

open Sys2Proof

/-- Offset 0x400 + 4 i is BUF[i] (R52). -/
theorem hostReg_buf (i : BitVec 8) : hostReg (0x400 + 4 * i.toNat) 4 = .ok (.buf i) := by
  have hi := i.isLt
  have h1 : (0x400 + 4 * i.toNat) % 4 = 0 := by omega
  have h2 : (0x400 + 4 * i.toNat - 0x400) / 4 = i.toNat := by omega
  have h3 : 0x400 ≤ 0x400 + 4 * i.toNat ∧ 0x400 + 4 * i.toNat < Config.regSpaceBytes := by
    simp only [Config.regSpaceBytes]; omega
  simp only [hostReg, h1, h2, h3, BitVec.ofNat_toNat, BitVec.setWidth_eq]
  have h4 : ¬(4 ≠ 4 ∨ 0 ≠ 0) := by decide
  simp only [h4, if_false]
  repeat rw [if_neg (by omega)]
  simp

/-- Bit 8 of STATUS is BUSY (R47). -/
theorem statusWord_busy (s : State) : (statusWord s).getLsbD 8 = s.busy := by
  simp only [statusWord, BitVec.getLsbD_append]
  simp

/-- Bits [7:0] of STATUS are CODE (R47). -/
theorem statusWord_code (s : State) : (statusWord s).extractLsb' 0 8 = s.code := by
  apply BitVec.eq_of_getLsbD_eq
  intro k hk
  rw [BitVec.getLsbD_extractLsb', statusWord, BitVec.getLsbD_append]
  simp [hk]

theorem hostDo_status (s : State) :
    hostDo (.read 0x004 4) s = .done (statusWord s) { s with hostData := statusWord s } := rfl

/-- GETCODE (R88) returns CODE and changes nothing but what the host's last read returned. -/
theorem hostGetCode_done (s : State) : hostGetCode s = .done s.code { s with hostData := statusWord s } := by
  simp only [hostGetCode, hostDo_status, HostRun.andThen, statusWord_code]

/-- BUFW (R88) with BUSY = 0. -/
theorem hostBufW_done (i : BitVec 8) (v : Byte) {s : State} (h : s.busy = false) :
    hostBufW i v s = .done () (bufWrite i v s) := by
  have hv : (v.setWidth 32).extractLsb' 0 8 = v := by
    apply BitVec.eq_of_getLsbD_eq
    intro k hk
    simp [hk]
    intro hv; omega
  simp only [hostBufW, hostDo, hostAccess, hostReg_buf, hostWrite, h, hv, micro_bufWrite, HostRun.andThen]
  simp

/-- BUFR (R88) with BUSY = 0. -/
theorem hostBufR_done (i : BitVec 8) {s : State} (h : s.busy = false) :
    hostBufR i s = .done (bufRead i s) { s with hostData := (bufRead i s).setWidth 32 } := by
  have hv : ((bufRead i s).setWidth 32).extractLsb' 0 8 = bufRead i s := by
    apply BitVec.eq_of_getLsbD_eq
    intro k hk
    simp [hk]
    intro hv; omega
  simp only [hostBufR, hostDo, hostAccess, hostReg_buf, hostRead, h, HostRun.andThen]
  simp only [Bool.false_eq_true, if_false, hv]

/-- WAIT with BUSY = 0 returns at once. -/
theorem hostWait_idle (bound : Nat) {s : State} (h : s.busy = false) :
    hostWait bound s = .done () { s with hostData := statusWord s } := by
  unfold hostWait
  simp only [hostDo_status, HostRun.andThen, statusWord_busy, h, Bool.false_eq_true, if_false]

/-- WAIT with BUSY = 1 lets the system step and waits on. -/
theorem hostWait_busy (bound : Nat) {s t : State} (h : s.busy = true)
    (hs : step { s with hostData := statusWord s } = .next t) : hostWait (bound + 1) s = hostWait bound t := by
  rw [hostWait]
  simp only [hostDo_status, HostRun.andThen, statusWord_busy]
  rw [if_pos h, hs]

/-- A WAIT that returns found BUSY = 0. -/
theorem hostWait_done {bound : Nat} {s t : State} {u : Unit} (h : hostWait bound s = .done u t) : t.busy = false := by
  induction bound generalizing s with
  | zero =>
    unfold hostWait at h
    simp only [hostDo_status, HostRun.andThen, statusWord_busy] at h
    cases hb : s.busy
    · simp only [hb, Bool.false_eq_true, if_false] at h
      cases h
      rfl
    · simp only [hb, if_true] at h
      cases h
  | succ k ih =>
    unfold hostWait at h
    simp only [hostDo_status, HostRun.andThen, statusWord_busy] at h
    cases hb : s.busy
    · simp only [hb, Bool.false_eq_true, if_false] at h
      cases h
      rfl
    · simp only [hb, if_true] at h
      split at h
      · exact ih h
      · cases h
      · cases h

end Sys2Proof.Machine
end

