-- ==== Sys2Proof/Laws/PerInstr.lean ====
section
/-! SUPPORT. The families of statements made per instruction. TableRow: a command's word lies in the command's own row of
spec/opcode_table.json, the (mask, match) pairs of 30_encoding.md R75 to R79. -/

namespace Sys2Proof.Laws.TableRow

open Sys2Proof

/-- The mask of the command's row (R75 to R79). -/
def mask : Instr → Word
  | .init => 0xFFFFFFFF
  | .start => 0xFFFFFFFF
  | .stop => 0xFFFFFFFF
  | .transfer _ => 0xFFFFFFF0
  | .readByte _ => 0xFFFFFFFE
  | .writeByte _ => 0xFFFFFF00
  | .writeTxn _ _ _ => 0xF00F00FF
  | .readTxn _ _ _ => 0xF00F00FF

/-- The match of the command's row (R75 to R79). -/
def pattern : Instr → Word
  | .init => 0x10000000
  | .start => 0x20000000
  | .stop => 0x30000000
  | .transfer _ => 0x40000000
  | .readByte _ => 0x50000000
  | .writeByte _ => 0x60000000
  | .writeTxn _ _ _ => 0x70000000
  | .readTxn _ _ _ => 0x80000000

/-- A well-formed command's word matches its own row. -/
def Statement (i : Instr) : Prop := WellFormed i → encode i &&& mask i = pattern i

theorem init : Statement .init := fun _ => by decide

theorem start : Statement .start := fun _ => by decide

theorem stop : Statement .stop := fun _ => by decide

theorem transfer (n : BitVec 4) : Statement (.transfer n) := by
  intro _
  revert n
  decide

theorem readByte (more : Bool) : Statement (.readByte more) := by
  intro _
  revert more
  decide

theorem writeByte (value : Byte) : Statement (.writeByte value) := by
  intro _
  apply BitVec.eq_of_getLsbD_eq
  intro k hk
  simp only [encode, commandWord, mask, pattern, BitVec.getLsbD_and, BitVec.getLsbD_append]
  interval_cases k <;> simp

theorem writeTxn (addr : BitVec 7) (stop : Bool) (count : BitVec 8) : Statement (.writeTxn addr stop count) := by
  intro _
  apply BitVec.eq_of_getLsbD_eq
  intro k hk
  simp only [encode, commandWord, mask, pattern, BitVec.getLsbD_and, BitVec.getLsbD_append]
  interval_cases k <;> simp

theorem readTxn (addr : BitVec 7) (stop : Bool) (count : BitVec 8) : Statement (.readTxn addr stop count) := by
  intro _
  apply BitVec.eq_of_getLsbD_eq
  intro k hk
  simp only [encode, commandWord, mask, pattern, BitVec.getLsbD_and, BitVec.getLsbD_append]
  interval_cases k <;> simp

end Sys2Proof.Laws.TableRow
end

