-- ==== Sys2Proof/Laws/Run.lean ====
section
/-! SUPPORT. The end of a run (70_reset_and_hazards.md R167): a run has at most one end, `runToEnd` finds it exactly when it
lies within the bound, and what the observation says of BUF. -/

namespace Sys2Proof.Machine

open Sys2Proof

/-- The observation of BUF is BUF[i] at every index. -/
theorem bufContents_getElem (s : State) (i : Nat) (h : i < Config.bufLen) :
    (bufContents s)[i] = bufRead (BitVec.ofNat 8 i) s := by simp [bufContents]

/-- The observation of BUF is the whole of what reads of it return. -/
theorem bufContents_eq_iff (s t : State) : bufContents s = bufContents t ↔ ∀ i, bufRead i s = bufRead i t := by
  constructor
  · intro h i
    have hi : i.toNat < Config.bufLen := i.isLt
    have := congrArg (fun v : Vector Byte Config.bufLen => v[i.toNat]) h
    simpa [bufContents_getElem] using this
  · intro h
    ext i hi
    simp [bufContents_getElem, h]

/-- A run has at most one end. -/
theorem runEndsAt_unique {s t u : State} {j k : Nat} (hj : RunEndsAt s j t) (hk : RunEndsAt s k u) : j = k ∧ t = u := by
  rcases Nat.lt_trichotomy j k with h | rfl | h
  · have := hk.2.2 j h t hj.1
    rw [hj.2.1] at this
    cases this
  · have := hj.1.symm.trans hk.1
    cases this
    exact ⟨rfl, rfl⟩
  · have := hj.2.2 k h u hk.1
    rw [hk.2.1] at this
    cases this

/-- A state in which a run can end is the end of the run from it. -/
theorem runEndsAt_zero {s : State} (h : runEnded s = true) : RunEndsAt s 0 s :=
  ⟨rfl, h, fun _ hj => absurd hj (Nat.not_lt_zero _)⟩

/-- A run that cannot end at its first state does not end there. -/
theorem not_runEndsAt_zero {s t : State} (h : runEnded s = false) : ¬RunEndsAt s 0 t := by
  rintro ⟨h0, he, -⟩
  cases h0
  rw [he] at h
  cases h

theorem run_succ (M : Host.Core) {s s' : M.State} (k : Nat) (hs : M.step s = .next s') :
    M.run (k + 1) s = M.run k s' := by simp only [Host.Core.run, hs]

/-- A run whose first step stops has no later state. -/
theorem run_stopped (M : Host.Core) {s t : M.State} (k : Nat) (hs : ∀ s', M.step s ≠ .next s') :
    M.run (k + 1) s ≠ .next t := by
  intro h
  simp only [Host.Core.run] at h
  split at h
  · exact hs _ ‹_›
  · cases h
  · cases h

theorem core_run_succ {s s' : State} (k : Nat) (hs : step s = .next s') :
    Sys2Proof.core.run (k + 1) s = Sys2Proof.core.run k s' := run_succ Sys2Proof.core k hs

theorem core_run_stopped {s t : State} (k : Nat) (hs : ∀ s', step s ≠ .next s') :
    Sys2Proof.core.run (k + 1) s ≠ .next t := run_stopped Sys2Proof.core k hs

/-- A run that cannot end at its first state ends where the run from its next state does. -/
theorem runEndsAt_succ {s s' t : State} {k : Nat} (h : runEnded s = false) (hs : step s = .next s') :
    RunEndsAt s (k + 1) t ↔ RunEndsAt s' k t := by
  unfold RunEndsAt
  rw [core_run_succ k hs]
  refine and_congr_right fun _ => and_congr_right fun _ => ⟨fun hj j hlt u hu => ?_, fun hj j hlt u hu => ?_⟩
  · exact hj (j + 1) (Nat.succ_lt_succ hlt) u ((core_run_succ j hs).trans hu)
  · cases j with
    | zero => cases hu; exact h
    | succ j => exact hj j (Nat.lt_of_succ_lt_succ hlt) u ((core_run_succ j hs).symm.trans hu)

/-- A run that cannot end at its first state, and whose first step stops, has no end. -/
theorem not_runEndsAt_stopped {s t : State} {k : Nat} (h : runEnded s = false) (hs : ∀ s', step s ≠ .next s') :
    ¬RunEndsAt s k t := by
  intro he
  cases k with
  | zero => exact not_runEndsAt_zero h he
  | succ k => exact core_run_stopped k hs he.1

/-- `runToEnd` answers the end of the run exactly when the run ends within the bound. -/
theorem runToEnd_final_iff {bound : Nat} {s t : State} :
    runToEnd bound s = .final t ↔ ∃ k, k ≤ bound ∧ RunEndsAt s k t := by
  induction bound generalizing s with
  | zero =>
    unfold runToEnd
    cases h : runEnded s
    · simp only [Bool.false_eq_true, if_false, reduceCtorEq, false_iff]
      rintro ⟨k, hk, he⟩
      obtain rfl : k = 0 := by omega
      exact not_runEndsAt_zero h he
    · simp only [if_true, RunEnd.final.injEq]
      exact ⟨fun e => ⟨0, le_refl _, e ▸ runEndsAt_zero h⟩,
        fun ⟨_, _, he⟩ => (runEndsAt_unique (runEndsAt_zero h) he).2⟩
  | succ n ih =>
    unfold runToEnd
    cases h : runEnded s
    · simp only [Bool.false_eq_true, if_false]
      cases hs : step s with
      | next s' =>
        simp only [ih]
        constructor
        · rintro ⟨k, hk, he⟩
          exact ⟨k + 1, by omega, (runEndsAt_succ h hs).2 he⟩
        · rintro ⟨k, hk, he⟩
          cases k with
          | zero => exact absurd he (not_runEndsAt_zero h)
          | succ k => exact ⟨k, by omega, (runEndsAt_succ h hs).1 he⟩
      | fault f =>
        simp only [reduceCtorEq, false_iff]
        rintro ⟨k, -, he⟩
        exact not_runEndsAt_stopped h (by simp [hs]) he
      | refused r =>
        simp only [reduceCtorEq, false_iff]
        rintro ⟨k, -, he⟩
        exact not_runEndsAt_stopped h (by simp [hs]) he
    · simp only [if_true, RunEnd.final.injEq]
      exact ⟨fun e => ⟨0, Nat.zero_le _, e ▸ runEndsAt_zero h⟩,
        fun ⟨_, _, he⟩ => (runEndsAt_unique (runEndsAt_zero h) he).2⟩

end Sys2Proof.Machine
end

