-- ==== Sys2Proof/Tests/Slice0.lean ====
section
/-! SUPPORT. The model's own tests: the well-formedness smoke, decodings of words written out from 30_encoding.md and
95_test_vectors.md, one-step tests of every command, the host's accesses, and, for every statement of
Certificates/Slice0/Obligations.lean that has hypotheses, a witness that meets them. -/

namespace Sys2Proof.Tests

open Sys2Proof Sys2Proof.Machine

/-! ## Helpers -/

/-- A configured idle engine on a free bus, all checks on (95 "S_init" with its parameters). -/
def ready : State :=
  { State.reset with
    cfg := true, sclDir := true, sdaDir := true,
    params := { checkPending := true, verifyStart := true, verifyStop := true } }

/-- The same, holding the bus: the clock driven low (after a START or a byte). -/
def heldBus : State := { ready with sclPort := false }

/-- The command `i` just issued on `s`. -/
def issued (i : Instr) (s : State) : State := issue (encode i) i s

/-- The command `i` running on `s`, at position `p`. -/
def at' (i : Instr) (p : Pos) (s : State) : State :=
  { s with busy := true, seq := some { curCmd := encode i, pos := p, loc := firstLocals i } }

/-- The outcome is a next state with the property `p`. -/
def answers (x : Host.Outcome State Fault Refusal) (p : State → Bool) : Bool :=
  match x with
  | .next t => p t
  | .fault _ => false
  | .refused _ => false

theorem next_of_answers {x : Host.Outcome State Fault Refusal} {p : State → Bool} (h : answers x p = true) :
    ∃ t, x = .next t ∧ p t = true := by
  cases x with
  | next t => exact ⟨t, rfl, h⟩
  | fault f => cases h
  | refused r => cases h

/-- The outcome is the refusal `r`. -/
def refuses (x : Host.Outcome State Fault Refusal) (r : Refusal) : Bool :=
  match x with
  | .refused r' => decide (r' = r)
  | .next _ => false
  | .fault _ => false

/-- The outcome is the hang on the engine's own clock. -/
def hangs (x : Host.Outcome State Fault Refusal) : Bool :=
  match x with
  | .fault .hangOwnClock => true
  | _ => false

/-- The position `p` is the running command's. -/
def standsAt (p : Pos) (s : State) : Bool := decide (s.seq.map Sequencer.pos = some p)

theorem justIssued_issued (i : Instr) (s : State) : JustIssued i (issued i s) := ⟨rfl, _, rfl⟩

/-! ## Well-formedness: one ill-formed term for each check (R84) -/

theorem test_transfer_needs_a_bit : ¬WellFormed (.transfer 0) := by decide

theorem test_transfer_at_most_eight : ¬WellFormed (.transfer 9) := by decide

theorem test_read_needs_a_byte : ¬WellFormed (.readTxn 0x50 true 0) := by decide

theorem test_write_of_no_byte_is_well_formed : WellFormed (.writeTxn 0x50 true 0) := by decide

/-! ## Decoding: words of 30_encoding.md R75 to R79 and 95 L2 "Decoding" -/

theorem test_decode_init : decode 0b00010000000000000000000000000000 = .ok .init := by decide

theorem test_decode_start : decode 0b00100000000000000000000000000000 = .ok .start := by decide

theorem test_decode_stop : decode 0b00110000000000000000000000000000 = .ok .stop := by decide

/-- OP = 0100, ARG[3:0] = 0110. -/
theorem test_decode_transfer : decode 0b01000000000000000000000000000110 = .ok (.transfer 6) := by decide

/-- OP = 0101, ARG[0] = 1. -/
theorem test_decode_read_byte : decode 0b01010000000000000000000000000001 = .ok (.readByte true) := by decide

/-- OP = 0110, ARG = 10100101. -/
theorem test_decode_write_byte : decode 0b01100000000000000000000010100101 = .ok (.writeByte 0xA5) := by decide

/-- OP = 0111, ADDR = 1010000, STOP = 1, reserved = 0000, COUNT = 00000010, ARG = 0. -/
theorem test_decode_write_txn : decode 0b01111010000100000000001000000000 = .ok (.writeTxn 0x50 true 2) := by decide

/-- OP = 1000, ADDR = 1101000, STOP = 0, reserved = 0000, COUNT = 10000001, ARG = 0. -/
theorem test_decode_read_txn : decode 0b10001101000000001000000100000000 = .ok (.readTxn 0x68 false 0x81) := by decide

theorem test_reserved_words :
    decode 0x00000000 = .error .opcode ∧ decode 0xF0000000 = .error .opcode ∧ decode 0x40000000 = .error .bitCount ∧
      decode 0x40000009 = .error .bitCount ∧ decode 0x40000018 = .error .unusedField ∧
      decode 0x50000002 = .error .unusedField ∧ decode 0x80000000 = .error .readCount ∧
      decode 0x7A110200 = .error .unusedField ∧ decode 0x7A100201 = .error .unusedField ∧
      decode 0x10000001 = .error .unusedField ∧ decode 0x20100000 = .error .unusedField := by decide

theorem test_encode_words :
    encode (.transfer 8) = 0x40000008 ∧ encode (.writeTxn 0x7F true 0) = 0x7FF00000 ∧
      encode (.readTxn 0x50 true 3) = 0x8A100300 := by decide

/-! ## Each command runs first from reset (95 T-I.1 for INIT; the others' first listed step) -/

theorem test_first_init :
    answers (step (State.reset.withFetchWord 32 0x10000000)) (fun t => t.cfg && t.sclDir && t.busy) = true := by decide

theorem test_first_start :
    answers (step (State.reset.withFetchWord 32 0x20000000)) (standsAt (.start .dataHigh)) = true := by decide

theorem test_first_stop :
    answers (step (State.reset.withFetchWord 32 0x30000000)) (fun t => !t.sdaPort) = true := by decide

theorem test_first_transfer :
    answers (step (State.reset.withFetchWord 32 0x40000003)) (fun t => decide (t.cnt = 3)) = true := by decide

theorem test_first_read_byte :
    answers (step (State.reset.withFetchWord 32 0x50000001)) (standsAt (.readByte (.data .preload))) = true := by decide

theorem test_first_write_byte :
    answers (step (State.reset.withFetchWord 32 0x600000A5)) (fun t => !t.sclPort) = true := by decide

theorem test_first_write_txn :
    answers (step (State.reset.withFetchWord 32 0x7A100200)) (standsAt (.start .dataHigh)) = true := by decide

theorem test_first_read_txn :
    answers (step (State.reset.withFetchWord 32 0x8A100200)) (standsAt (.start .dataHigh)) = true := by decide

/-- A reserved word placed as the running command is refused. -/
theorem test_first_reserved : refuses (step (State.reset.withFetchWord 32 0x90000000)) .reservedCommand = true := by
  decide

/-! ## One step of each command -/

/-- T-I.2: INIT releases the clock in the step that clears SIF. -/
theorem test_init_clears_in_one_step :
    answers (exec .init (issued .init { heldBus with sif := true }))
      (fun t => !t.sif && decide (flagsWord t = 0x100) && decide (linesWord t = 0xFF3F)) = true := by decide

/-- R91: the data line falls with the clock high, and the detector sets SIF in that step. -/
theorem test_start_condition_is_seen :
    answers (exec .start (at' .start (.start .dataLow) ready)) (fun t => t.sif && !sdaLevel t) = true := by decide

/-- T-S.5: DataCollision, with no line change. -/
theorem test_start_collision :
    answers (exec .start (issued .start { ready with envSdaLow := true }))
      (fun t => decide (t.seq.map (fun q => q.loc.s) = some .dataCollision) && decide (levels t = ⟨true, false⟩)) = true := by
  decide

/-- T-P.1: the stop condition sets PF, which the last step of STOP clears. -/
theorem test_stop_condition_is_seen :
    answers (exec .stop (at' .stop (.stop .dataRelease) { ready with sdaPort := false })) (fun t => t.pf) = true := by
  decide

theorem test_stop_clears_its_flag :
    answers (exec .stop (at' .stop (.stop .verify) { ready with pf := true })) (fun t => !t.pf) = true := by decide

/-- T-T.2: 0xFF shifted left with a 0 is 0xFE, and the countdown of 1 ends. -/
theorem test_transfer_shifts_left :
    answers (exec (.transfer 1) (at' (.transfer 1) (.transfer .shift) { heldBus with cnt := 1, latch := false }))
      (fun t => decide (t.sr = 0xFE) && t.oif && decide (t.cnt = 0)) = true := by decide

/-- T-T.5: the wait for a clock the engine pulls itself. -/
theorem test_transfer_hangs :
    hangs (exec (.transfer 8) (at' (.transfer 8) (.transfer .sample) { heldBus with cnt := 8 })) = true := by decide

/-- R83: the last byte is not acknowledged (0xFF), another one is (0x00). -/
theorem test_read_byte_ack :
    answers (exec (.readByte true) (at' (.readByte true) (.readByte .loadAck) heldBus)) (fun t => decide (t.sr = 0x00))
      && answers (exec (.readByte false) (at' (.readByte false) (.readByte .loadAck) heldBus))
        (fun t => decide (t.sr = 0xFF)) = true := by decide

/-- R103, R106: `finish` puts the byte received in RXDATA. -/
theorem test_read_byte_result :
    answers (exec (.readByte false)
        { heldBus with
          busy := true
          seq := some { curCmd := 0x50000000, pos := .finish, loc := { firstLocals .start with b := 0x3C } } })
      (fun t => decide (t.rxdata = 0x3C) && !t.busy) = true := by decide

theorem test_write_byte_loads :
    answers (exec (.writeByte 0xA5) (at' (.writeByte 0xA5) (.writeByte .load) heldBus)) (fun t => decide (t.sr = 0xA5))
      = true := by decide

/-- R109: bit 0 of the acknowledgement's result set is SlaveNack. -/
theorem test_write_byte_nack :
    answers (exec (.writeByte 0)
        { heldBus with
          busy := true
          seq := some { curCmd := 0x60000000, pos := .writeByte (.ack .dirOut),
                        loc := { firstLocals .start with result := 0xFF } } })
      (fun t => decide (t.seq.map (fun q => q.loc.s) = some .slaveNack)) = true := by decide

/-- L1.9: the address byte of a write to 0x50 is 0xA0. -/
theorem test_write_txn_address :
    answers (exec (.writeTxn 0x50 true 1) (at' (.writeTxn 0x50 true 1) (.addrByte .load) heldBus))
      (fun t => decide (t.sr = 0xA0)) = true := by decide

/-- R108: the payload is read from BUF. -/
theorem test_write_txn_payload :
    answers (exec (.writeTxn 0x50 true 1)
        (at' (.writeTxn 0x50 true 1) (.writeByte .load) { heldBus with buf := [(0, 0x5C)] }))
      (fun t => decide (t.sr = 0x5C)) = true := by decide

/-- L1.9: the address byte of a read from 0x68 is 0xD1. -/
theorem test_read_txn_address :
    answers (exec (.readTxn 0x68 true 1) (at' (.readTxn 0x68 true 1) (.addrByte .load) heldBus))
      (fun t => decide (t.sr = 0xD1)) = true := by decide

/-- R119: the store step writes BUF[i]. -/
theorem test_read_txn_store :
    answers (exec (.readTxn 0x50 true 2)
        { heldBus with
          busy := true
          seq := some { curCmd := 0x8A100200, pos := .store, loc := { firstLocals .start with i := 1, b := 0x99 } } })
      (fun t => decide (t.buf = [(1, 0x99)])) = true := by decide

/-! ## The host (95 T-H) -/

theorem test_host_reads_lines_at_reset :
    answers (hostAccess (.read 0x010 4) State.reset) (fun t => decide (t.hostData = 0xFF2B)) = true := by decide

theorem test_host_start_before_init :
    refuses (hostAccess (.write 0x000 4 0x20000000) State.reset) .notInitialised = true := by decide

theorem test_host_buf_keeps_a_byte :
    answers (hostAccess (.write 0x404 4 0xABCD12) ready) (fun t => decide (t.buf = [(1, 0x12)])) = true := by decide

theorem test_host_refusals :
    refuses (hostAccess (.read 0x014 4) ready) .reservedOffset = true ∧
      refuses (hostAccess (.read 0x3FC 4) ready) .reservedOffset = true ∧
      refuses (hostAccess (.read 0x800 4) ready) .reservedOffset = true ∧
      refuses (hostAccess (.read 0x002 4) ready) .badAccess = true ∧
      refuses (hostAccess (.read 0x004 1) ready) .badAccess = true ∧
      refuses (hostAccess (.write 0x000 4 0x90000000) ready) .reservedCommand = true ∧
      refuses (hostAccess (.write 0x000 4 0x30000000) (issued .start ready)) .commandWhileBusy = true ∧
      refuses (hostAccess (.write 0x7FC 4 0) (issued .start ready)) .bufferWriteWhileBusy = true := by decide

/-- The listener hears a start condition and the byte 0xA0, not acknowledged (95 "Bus logs"). -/
theorem test_listener_hears_a_byte :
    busEvents
        ([⟨true, false⟩, ⟨false, false⟩] ++
          ([true, false, true, false, false, false, false, false, true].flatMap fun b => [⟨false, b⟩, ⟨true, b⟩, ⟨false, b⟩]))
      = [.start, .byte 0xA0 true] := by decide

/-! ## The end of a run (R167) -/

/-- The observation of BUF holds a byte written at its index, and at any other the byte a read returns. -/
theorem test_observation_has_all_of_buf :
    (observe { ready with buf := [(1, 0x12)] }).buf[1] = 0x12 ∧
      (observe { ready with buf := [(1, 0x12)] }).buf[255] = Config.bufAtReset ready.epoch 255 :=
  ⟨bufContents_getElem _ 1 (by decide), bufContents_getElem _ 255 (by decide)⟩

/-- T-I.1: the run of a host that writes INIT ends after its finish, not at reset and not while BUSY = 1. -/
theorem test_run_ends_after_init :
    let s := { State.reset with agenda := [.host (.write 0x000 4 0x10000000)] }
    (observeRun 2 s).isNone = true ∧ (observeRun 9 s).map (fun o => (o.code, o.flags, o.lines)) = some (0, 0x100, 0xFF3F) := by
  decide

/-! ## Witnesses: for each statement with hypotheses, a state and operands that meet them -/

/-! ### Encodings -/

theorem witness_EncodedCommandDecodesBack :
    WellFormed (.transfer 1) ∧ WellFormed (.transfer 8) ∧ WellFormed (.readTxn 0x7F false 1) ∧
      WellFormed (.readTxn 0 true 255) ∧ WellFormed (.writeTxn 0x7F true 0) := by decide

theorem witness_DecodedWordIsItsEncoding : decode 0x7FF0FF00 = .ok (.writeTxn 0x7F true 255) := by decide

/-- A word for each clause of R84, a word that is not reserved, and an idle engine with CFG 1 and 0. -/
theorem witness_ReservedWordsAreThoseListed :
    (opField 0x0FFFFFFF = 0 ∧ (opField 0x90000000).toNat = 9 ∧ reservedField 0x7A110200 ≠ 0 ∧
      addrField 0x60200000 ≠ 0 ∧ stopField 0x20100000 = true ∧ countField 0x50000100 ≠ 0 ∧ argField 0x7A100201 ≠ 0 ∧
      (argField 0x40000018).extractLsb' 4 4 ≠ 0 ∧ (argField 0x40000009).extractLsb' 0 4 = 9 ∧
      (argField 0x50000002).extractLsb' 1 7 ≠ 0 ∧ countField 0x8A100000 = 0) ∧
      (∃ i, decode 0x40000008 = .ok i) ∧ (ready.busy = false ∧ ready.cfg = true) ∧
      State.reset.busy = false ∧ State.reset.cfg = false :=
  ⟨by decide, ⟨_, (by decide : decode 0x40000008 = .ok (.transfer 8))⟩, ⟨rfl, rfl⟩, rfl, rfl⟩

theorem witness_TransactionsSendTheAddressByte :
    AtPos (.addrByte .load) (at' (.readTxn 0x7F true 1) (.addrByte .load) heldBus) ∧ WellFormed (.readTxn 0x7F true 1) :=
  ⟨⟨_, rfl, rfl⟩, by decide⟩

/-! ### Reset -/

/-- A reset next, in the middle of a TRANSFER. -/
theorem witness_ResetTakesEffectInEveryState :
    { at' (.transfer 8) (.transfer .hold) ready with agenda := [.reset, .engine] }.agenda = .reset :: [.engine] := rfl

/-! ### Signal Layer -/

theorem witness_InitConfiguresTheEngine :
    JustIssued .init (issued .init State.reset) ∧ PeerQuiet (issued .init State.reset) :=
  ⟨justIssued_issued _ _, rfl, rfl⟩

/-- From an idle and from a held bus. -/
theorem witness_StartMakesAStartCondition :
    ∀ s ∈ [ready, heldBus],
      JustIssued .start (issued .start s) ∧ AtBoundary (issued .start s) ∧ PeerQuiet (issued .start s) ∧
        (issued .start s).sif = false ∧ (issued .start s).pf = false := by
  intro s hs
  refine ⟨justIssued_issued _ _, ?_⟩
  simp only [List.mem_cons, List.not_mem_nil, or_false] at hs
  rcases hs with rfl | rfl <;> exact ⟨⟨rfl, by decide⟩, ⟨rfl, rfl⟩, rfl, rfl⟩

/-- Each of the three pending causes. -/
theorem witness_StartReportsThePendingFault :
    ∀ s ∈ [{ ready with sif := true, pf := true }, { ready with pf := true }, { ready with envSdaLow := true }],
      JustIssued .start (issued .start s) ∧ (issued .start s).params.checkPending = true ∧
        ((issued .start s).sif || (issued .start s).pf || collision (issued .start s)) = true := by
  intro s hs
  refine ⟨justIssued_issued _ _, ?_⟩
  simp only [List.mem_cons, List.not_mem_nil, or_false] at hs
  rcases hs with rfl | rfl | rfl <;> exact ⟨rfl, by decide⟩

theorem witness_StartBesideAHeldClock :
    let s := issued .start { ready with envSclLow := true }
    JustIssued .start s ∧ AtBoundary s ∧ s.envSclLow = true ∧ s.envSdaLow = false ∧ s.sif = false ∧ s.pf = false :=
  ⟨justIssued_issued _ _, ⟨rfl, by decide⟩, rfl, rfl, rfl, rfl⟩

/-- Both clauses: CHECK_PENDING true and false. -/
theorem witness_StartBesideHeldData :
    ∀ c : Bool,
      let s := issued .start
        { ready with envSdaLow := true, params := { checkPending := c, verifyStart := true, verifyStop := true } }
      JustIssued .start s ∧ AtBoundary s ∧ s.envSdaLow = true ∧ s.sif = false ∧ s.pf = false ∧
        s.params.checkPending = c :=
  fun _ => ⟨justIssued_issued _ _, ⟨rfl, rfl⟩, rfl, rfl, rfl, rfl⟩

theorem witness_StartPassesOnAStickyFlag :
    let s := issued .start
      { ready with sif := true, params := { checkPending := false, verifyStart := true, verifyStop := true } }
    JustIssued .start s ∧ AtBoundary s ∧ s.sif = true ∧ s.params.checkPending = false :=
  ⟨justIssued_issued _ _, ⟨rfl, by decide⟩, rfl, rfl⟩

theorem witness_StopMakesAStopCondition :
    ∀ c : Bool, let s := issued .stop { ready with sclPort := c }
      JustIssued .stop s ∧ AtBoundary s ∧ PeerQuiet s :=
  fun _ => ⟨justIssued_issued _ _, ⟨rfl, rfl⟩, rfl, rfl⟩

theorem witness_StopBesideHeldData :
    let s := issued .stop { heldBus with envSdaLow := true }
    JustIssued .stop s ∧ AtBoundary s ∧ s.envSclLow = false ∧ s.envSdaLow = true ∧ s.pf = false :=
  ⟨justIssued_issued _ _, ⟨rfl, by decide⟩, rfl, rfl, rfl⟩

theorem witness_StopWaitsForAHeldClock :
    let s := issued .stop { heldBus with envSclLow := true }
    JustIssued .stop s ∧ AtBoundary s ∧ s.envSclLow = true ∧ s.envSdaLow = false :=
  ⟨justIssued_issued _ _, ⟨rfl, by decide⟩, rfl, rfl⟩

theorem witness_ClockedBitShiftsInTheSample :
    let s := at' (.transfer 8) (.transfer .setup) { heldBus with cnt := 1 }
    WellFormed (.transfer 8) ∧ AtPos (.transfer .setup) s ∧ s.sclDir = true ∧ s.sclPort = false ∧ s.envSclLow = false :=
  ⟨by decide, ⟨_, rfl, rfl⟩, rfl, rfl, rfl⟩

theorem witness_TransferClocksNBits :
    ∀ n ∈ [(1 : BitVec 4), 8], let s := issued (.transfer n) heldBus
      WellFormed (.transfer n) ∧ JustIssued (.transfer n) s ∧ AtBoundary s ∧ s.sclPort = false ∧ s.envSclLow = false := by
  intro n hn
  exact ⟨by revert n; decide, justIssued_issued _ _, ⟨rfl, by revert n; decide⟩, rfl, rfl⟩

theorem witness_ReleasedClockHangsTransferAndReadByte :
    ∀ i ∈ [Instr.transfer 1, .transfer 8, .readByte true], let s := issued i ready
      WellFormed i ∧ JustIssued i s ∧ AtBoundary s ∧ s.sclPort = true ∧
        ((∃ n, i = .transfer n) ∨ ∃ more, i = .readByte more) := by
  intro i hi
  refine ⟨by revert i; decide, justIssued_issued _ _, ⟨rfl, by revert i; decide⟩, rfl, ?_⟩
  simp only [List.mem_cons, List.not_mem_nil, or_false] at hi
  rcases hi with rfl | rfl | rfl
  · exact .inl ⟨_, rfl⟩
  · exact .inl ⟨_, rfl⟩
  · exact .inr ⟨_, rfl⟩

/-! ### Byte Layer -/

theorem witness_ReadByteReturnsThePeersByte :
    let s := issued (.readByte false) heldBus
    JustIssued (.readByte false) s ∧ AtBoundary s ∧ s.sclPort = false ∧ s.envSclLow = false :=
  ⟨justIssued_issued _ _, ⟨rfl, by decide⟩, rfl, rfl⟩

theorem witness_ReceiverAcknowledgesAllButTheLast :
    let s := at' (.readTxn 0x50 true 1) (.readByte .loadAck) heldBus
    AtPos (.readByte .loadAck) s ∧ boundaryOk s = true ∧ s.sclPort = false ∧ s.envSclLow = false ∧
      WellFormed (.readTxn 0x50 true 1) ∧ ∃ q, s.seq = some q :=
  ⟨⟨_, rfl, rfl⟩, by decide, rfl, rfl, by decide, _, rfl⟩

theorem witness_WriteByteWithoutPeerIsNack :
    let s := issued (.writeByte 0x00) ready
    JustIssued (.writeByte 0x00) s ∧ AtBoundary s ∧ PeerQuiet s :=
  ⟨justIssued_issued _ _, ⟨rfl, by decide⟩, rfl, rfl⟩

theorem witness_WriteByteAcknowledgedIsOk :
    let s := issued (.writeByte 0xFF) heldBus
    JustIssued (.writeByte 0xFF) s ∧ AtBoundary s ∧ s.envSclLow = false :=
  ⟨justIssued_issued _ _, ⟨rfl, by decide⟩, rfl⟩

theorem witness_WriteByteCarriesItsValue :
    let s := issued (.writeByte 0xA5) ready
    JustIssued (.writeByte 0xA5) s ∧ AtBoundary s ∧ PeerQuiet s :=
  ⟨justIssued_issued _ _, ⟨rfl, by decide⟩, rfl, rfl⟩

/-! ### Transaction Layer -/

theorem witness_AddressNackEndsTheTransaction :
    ∀ i ∈ [Instr.writeTxn 0x50 false 1, .readTxn 0x7F true 255], let s := issued i ready
      (∃ addr stop count, i = .writeTxn addr stop count ∨ i = .readTxn addr stop count) ∧ WellFormed i ∧
        JustIssued i s ∧ AtBoundary s ∧ PeerQuiet s ∧ s.sif = false ∧ s.pf = false := by
  intro i hi
  refine ⟨?_, by revert i; decide, justIssued_issued _ _, ⟨rfl, by revert i; decide⟩, ⟨rfl, rfl⟩, rfl, rfl⟩
  simp only [List.mem_cons, List.not_mem_nil, or_false] at hi
  rcases hi with rfl | rfl
  · exact ⟨_, _, _, .inl rfl⟩
  · exact ⟨_, _, _, .inr rfl⟩

/-- The second clause at once, and the first at `k` = 0. -/
theorem witness_PendingFaultExhaustsTheRetries :
    let i : Instr := .writeTxn 0x50 false 0
    let s := issued i { ready with envSdaLow := true }
    WellFormed i ∧ JustIssued i s ∧ s.params.checkPending = true ∧ (s.sif || s.pf || collision s) = true ∧
      execSteps i 0 s = .next s ∧ ∃ t, execSteps i 2 s = .next t :=
  ⟨by decide, justIssued_issued _ _, rfl, by decide, rfl, _, rfl⟩

theorem witness_MissingStartIsNotRetried :
    let i : Instr := .readTxn 0x50 false 1
    let s := issued i { ready with envSclLow := true }
    WellFormed i ∧ JustIssued i s ∧ AtBoundary s ∧ s.envSclLow = true ∧ s.envSdaLow = false ∧ s.sif = false ∧
      s.pf = false ∧ s.params.verifyStart = true :=
  ⟨by decide, justIssued_issued _ _, ⟨rfl, by decide⟩, rfl, rfl, rfl, rfl, rfl⟩

theorem witness_AcknowledgedWriteFinishesOk :
    ∀ count ∈ [(0 : BitVec 8), 255], let s := issued (.writeTxn 0x50 true count) ready
      JustIssued (.writeTxn 0x50 true count) s ∧ AtBoundary s ∧ s.envSclLow = false ∧ s.envSdaLow = false ∧
        s.sif = false ∧ s.pf = false :=
  fun _ _ => ⟨justIssued_issued _ _, ⟨rfl, rfl⟩, rfl, rfl, rfl, rfl⟩

theorem witness_WritePayloadIsTheBuffer :
    ∃ q, (at' (.writeTxn 0x50 true 1) (.writeByte .load) heldBus).seq = some q ∧ q.pos = .writeByte .load :=
  ⟨_, rfl, rfl⟩

theorem witness_ReadDeliversThePeersBytes :
    ∀ count ∈ [(1 : BitVec 8), 255], let s := issued (.readTxn 0x50 false count) ready
      WellFormed (.readTxn 0x50 false count) ∧ JustIssued (.readTxn 0x50 false count) s ∧ AtBoundary s ∧
        s.envSclLow = false ∧ s.envSdaLow = false ∧ s.sif = false ∧ s.pf = false := by
  intro count hc
  exact ⟨by revert count; decide, justIssued_issued _ _, ⟨rfl, rfl⟩, rfl, rfl, rfl, rfl⟩

theorem witness_StopBitAlwaysRunsTheStop :
    let s := at' (.writeTxn 0x50 true 1) (.stop .verify) ready
    ∃ t, exec (.writeTxn 0x50 true 1) s = .next t ∧ AtPos .finish t ∧ s ≠ t :=
  ⟨_, rfl, ⟨_, rfl, rfl⟩, by decide⟩

/-- Both clauses: the address byte, and a payload byte of WRITE_TXN. -/
theorem witness_NackEndsTheLoopAtOnce :
    ∀ p ∈ [Pos.addrByte (.ack .dirOut), .writeByte (.ack .dirOut)],
      let q : Sequencer := { curCmd := 0x7A000100, pos := p, loc := { firstLocals .start with result := 0xFF } }
      WellFormed (.writeTxn 0x50 false 1) ∧ { heldBus with seq := some q }.seq = some q ∧ q.pos = p ∧
        q.loc.result.getLsbD 0 = true :=
  fun _ _ => ⟨by decide, rfl, rfl, (by decide : (0xFF : Byte).getLsbD 0 = true)⟩

/-- Every command at its `finish`, the transactions with STOP 0 and 1. -/
theorem witness_CommandsFinishWithTheirCodes :
    ∀ i ∈ [Instr.init, .start, .stop, .transfer 8, .readByte true, .writeByte 0xA5, .writeTxn 0x50 false 1,
        .readTxn 0x50 true 1],
      let s := at' i .finish (if i = .init ∨ i = .stop then ready else heldBus)
      Inv s ∧ (∃ q, s.seq = some q ∧ decode q.curCmd = .ok i) ∧ answers (exec i s) (fun t => !t.busy) = true := by
  intro i hi
  refine ⟨by revert i; decide, ⟨_, rfl, by revert i; decide⟩, by revert i; decide⟩

/-! ### Frames -/

theorem witness_SignalCommandsFrame :
    ∀ i ∈ [Instr.init, .start, .stop], ∃ t, exec i (issued i ready) = .next t ∧ ¬AtPos .finish (issued i ready) := by
  intro i hi
  simp only [List.mem_cons, List.not_mem_nil, or_false] at hi
  rcases hi with rfl | rfl | rfl
  all_goals
    refine ⟨_, rfl, ?_⟩
    rintro ⟨q, hq, hp⟩
    cases hq
    cases hp

/-- The two positions where SDA_DIR turns to input, and a `finish` of WRITE_BYTE. -/
theorem witness_ByteCommandsFrame :
    (∃ t, exec (.readByte true) (issued (.readByte true) heldBus) = .next t) ∧
      (∃ t, exec (.writeByte 1) (at' (.writeByte 1) (.writeByte .dirIn) heldBus) = .next t) ∧
      (∃ t, exec (.writeByte 1) (at' (.writeByte 1) .finish heldBus) = .next t) ∧
      ∃ t, exec (.transfer 8) (issued (.transfer 8) heldBus) = .next t :=
  ⟨⟨_, rfl⟩, ⟨_, rfl⟩, ⟨_, rfl⟩, _, rfl⟩

/-- At READ_TXN's store step and at a WRITE_TXN step. -/
theorem witness_TransactionsFrame :
    (∃ q t, (at' (.readTxn 0x50 true 1) .store heldBus).seq = some q ∧ q.pos = .store ∧
        exec (.readTxn 0x50 true 1) (at' (.readTxn 0x50 true 1) .store heldBus) = .next t) ∧
      ∃ q t, (issued (.writeTxn 0x50 true 1) ready).seq = some q ∧
        exec (.writeTxn 0x50 true 1) (issued (.writeTxn 0x50 true 1) ready) = .next t :=
  ⟨⟨_, _, rfl, rfl, rfl⟩, _, _, rfl, rfl⟩

theorem witness_AtMostOneLineChanges :
    let s := at' .start (.start .clockLow) { ready with sdaPort := false }
    (∃ t, exec .start s = .next t) ∧ ¬AtPos .init s ∧ (∃ t, step s = .next t) ∧ resetsNext s = false ∧
      ¬(enginesTurn s = true ∧ posOf s = .init) := by
  refine ⟨⟨_, rfl⟩, ?_, (next_of_answers (p := fun _ => true) (by decide)).imp fun _ h => h.1, rfl, by decide⟩
  rintro ⟨q, hq, hp⟩
  cases hq
  cases hp

/-! ### Flags and detector -/

/-- A fall of SDA in START and a rise in STOP, the clock high. -/
theorem witness_DetectorSeesConditions :
    let s := at' .start (.start .dataLow) ready
    let u := at' .stop (.stop .dataRelease) { ready with sdaPort := false }
    resetsNext s = false ∧ resetsNext u = false ∧
      answers (step s) (fun t => s.cfg && sclLevel s && sclLevel t && sdaLevel s && !sdaLevel t &&
        !(enginesTurn s && (decide (posOf s = .init) || atPreload (posOf s)))) = true ∧
      answers (step u) (fun t => u.cfg && sclLevel u && sclLevel t && !sdaLevel u && sdaLevel t &&
        !(enginesTurn u && (decide (posOf u = .init) || atPreload (posOf u) || decide (posOf u = .stop .verify))))
        = true := by decide

theorem witness_OnlyTheDetectorSetsConditionFlags :
    let s := at' .start (.start .dataLow) ready
    let u := at' .stop (.stop .dataRelease) { ready with sdaPort := false }
    answers (step s) (fun t => !s.sif && t.sif) = true ∧ answers (step u) (fun t => !u.pf && t.pf) = true := by decide

/-- A preload clears all three, STOP's last step PF. -/
theorem witness_FlagsAreClearedOnlyByTheirWriters :
    let s := issued (.transfer 8) { heldBus with sif := true, pf := true, oif := true }
    let u := at' .stop (.stop .verify) { ready with pf := true }
    resetsNext s = false ∧ resetsNext u = false ∧
      answers (step s) (fun t => s.sif && !t.sif && s.oif && !t.oif && s.pf && !t.pf && s.cfg) = true ∧
      answers (step u) (fun t => u.pf && !t.pf) = true := by decide

/-- All three clauses in one `finish` of READ_BYTE. -/
theorem witness_ResultsChangeOnlyAtFinish :
    let s : State :=
      { heldBus with
        busy := true, code := 6,
        seq := some { curCmd := 0x50000000, pos := .finish, loc := { firstLocals .start with b := 0x3C } } }
    resetsNext s = false ∧
      answers (step s) (fun t => decide (t.code ≠ s.code) && decide (t.rxdata ≠ s.rxdata) && s.busy && !t.busy) = true := by
  decide

/-! ### The host -/

/-- A configured engine, and INIT before any configuration. -/
theorem witness_CommandWriteIssuesTheCommand :
    (ready.busy = false ∧ decode 0x40000001 = .ok (.transfer 1) ∧ ready.cfg = true) ∧
      State.reset.busy = false ∧ decode 0x10000000 = .ok .init ∧ State.reset.cfg = false := by decide

theorem witness_BufferWriteIsReadBack :
    ready.busy = false ∧ ∀ i ∈ [(0 : BitVec 8), 255],
      answers (hostAccess (.write (0x400 + 4 * i.toNat) 4 0xABCD12) ready) (fun _ => true) = true := by decide

/-- The edges of the defined offsets: 0x010 and 0x014, 0x3FC and 0x400, 0x7FC and 0x800. -/
theorem witness_RefusedAccessesAreThoseListed :
    refuses (hostAccess (.write 0x014 4 0) ready) .reservedOffset = true ∧
      refuses (hostAccess (.write 0x3FC 4 0) (issued .start ready)) .reservedOffset = true ∧
      refuses (hostAccess (.write 0x800 4 0) ready) .reservedOffset = true ∧
      refuses (hostAccess (.write 0x400 4 0) (issued .start ready)) .bufferWriteWhileBusy = true ∧
      answers (hostAccess (.write 0x010 4 0) ready) (fun _ => true) = true ∧
      answers (hostAccess (.write 0x400 4 0) ready) (fun _ => true) = true ∧
      answers (hostAccess (.read 0x7FC 4) ready) (fun _ => true) = true := by decide

/-! ### Holds, hangs and the step -/

theorem witness_HeldEngineDoesNotMove :
    let s := at' .stop (.stop .waitHigh) { ready with sdaPort := false, envSclLow := true }
    (∃ q, s.seq = some q ∧ atWait q.pos = true ∧ posOk false .stop q s = true ∧ decode q.curCmd = .ok .stop) ∧
      WellFormed .stop ∧ s.envSclLow = true ∧ sclPulled s = false ∧ s.busy = true ∧ s.agenda = [] :=
  ⟨⟨_, rfl, by decide, by decide, by decide⟩, by decide, rfl, by decide, rfl, rfl⟩

/-- A state that meets the invariant and hangs, and one that goes on. -/
theorem witness_OnlyTransferAndReadByteCanHang :
    let s := at' (.transfer 8) (.transfer .sample) { heldBus with cnt := 8 }
    let u := at' .start (.start .check) ready
    (Inv s ∧ (∃ q, s.seq = some q ∧ decode q.curCmd = .ok (.transfer 8)) ∧ hangs (exec (.transfer 8) s) = true) ∧
      Inv u ∧ ∃ q, u.seq = some q ∧ decode q.curCmd = .ok .start :=
  ⟨⟨by decide, ⟨_, rfl, by decide⟩, by decide⟩, by decide, _, rfl, by decide⟩

theorem witness_StepRunsTheLatchedCommand :
    let s := { issued (.writeByte 0xA5) heldBus with agenda := [.engine, .reset] }
    enginesTurn s = true ∧ ∃ q, s.seq = some q ∧ decode q.curCmd = .ok (.writeByte 0xA5) :=
  ⟨by decide, _, rfl, by decide⟩

/-- Each of the four clauses. -/
theorem witness_StepRunsTheNamedAgent :
    ready.busy = false ∧ ready.agenda = [] ∧ { ready with agenda := [.engine] }.agenda = .engine :: [] ∧
      { ready with agenda := [.host (.read 0x004 4)] }.agenda = .host (.read 0x004 4) :: [] ∧
      { ready with agenda := [.env .sda true] }.agenda = .env .sda true :: [] := ⟨rfl, rfl, rfl, rfl, rfl⟩

/-! ### Invariants and progress -/

theorem witness_EveryStepKeepsTheInvariant :
    Inv (issued (.writeTxn 0x50 true 1) ready) ∧
      ∃ t, step (issued (.writeTxn 0x50 true 1) ready) = .next t :=
  ⟨by decide, (next_of_answers (p := fun _ => true) (by decide)).imp fun _ h => h.1⟩

theorem witness_EveryStepKeepsTheBufferForm :
    let s := at' (.readTxn 0x50 true 1) .store { heldBus with buf := [(3, 1), (255, 2)] }
    Memory.wf s.buf = true ∧ ∃ t, step s = .next t :=
  ⟨by decide, (next_of_answers (p := fun _ => true) (by decide)).imp fun _ h => h.1⟩

/-- From reset the host writes INIT, and two engine steps later the engine is configured and idle. -/
theorem witness_RunsFromResetRespectTheBoundary :
    answers
      (Sys2Proof.core.run 3
        { State.reset with
          agenda := [.host (.write 0x000 4 0x10000000)]
          params := { checkPending := true, verifyStart := true, verifyStop := true } })
      (fun t => !t.busy && t.cfg) = true := by decide

theorem witness_EveryCommandStepMakesProgress :
    let s := issued .stop ready
    Inv s ∧ (∃ q, s.seq = some q ∧ decode q.curCmd = .ok .stop) ∧ ∃ t, exec .stop s = .next t :=
  ⟨by decide, ⟨_, rfl, by decide⟩, _, rfl⟩

theorem witness_UnheldCommandStepsAnswer :
    let s := issued (.readByte true) heldBus
    WellFormed (.readByte true) ∧ (∃ q, s.seq = some q ∧ posOk true (.readByte true) q s = true) ∧
      s.envSclLow = false :=
  ⟨by decide, ⟨_, rfl, by decide⟩, rfl⟩

theorem witness_EveryIssuedCommandFinishes :
    ∀ i ∈ [Instr.init, .start, .stop, .transfer 8, .readByte true, .writeByte 0xA5, .writeTxn 0x50 false 255,
        .readTxn 0x50 true 255],
      let s := issued i heldBus
      WellFormed i ∧ JustIssued i s ∧ AtBoundary s ∧ s.envSclLow = false ∧ s.sclPort = false := by
  intro i hi
  exact ⟨by revert i; decide, justIssued_issued _ _, ⟨rfl, by revert i; decide⟩, rfl, rfl⟩

/-! ### Register layer -/

/-- The host sequence returned, with the property `p` of what it returned and left. -/
def returns {α : Type} (x : HostRun α) (p : α → State → Bool) : Bool :=
  match x with
  | .done a s => p a s
  | .waiting _ => false
  | .fault _ => false
  | .refused _ => false

/-- A failed read (a latched SIF, code 1), and a read that succeeds: a device that pulls SDA for good, START's and
STOP's checks off. -/
theorem witness_RegisterUpdatesFollowTheFormulas :
    returns (readRegister 8 0x50 0x10 { ready with sif := true }) (fun r _ => decide (r.2 = 1)) = true ∧
      returns
        (readRegister 160 0x50 0x10
          { ready with
            envSdaLow := true, params := { checkPending := false, verifyStart := false, verifyStop := false } })
        (fun r t => decide (r.2 = 0) && !t.busy) = true := by decide +kernel

theorem witness_ReadRegisterWithoutDevice :
    73 ≤ 73 ∧ ready.busy = false ∧ AtBoundary ready ∧ PeerQuiet ready ∧ ready.sif = false ∧ ready.pf = false ∧
      ready.agenda = [] := ⟨le_refl _, rfl, ⟨rfl, rfl⟩, ⟨rfl, rfl⟩, rfl, rfl, rfl⟩

end Sys2Proof.Tests
end

/-! SUPPORT. What one step of any agent does to the two lines: how many it moves (10_state.md R36), and that the detector
latches the condition it shows (R33, R34). First for the writes of a (µ) step, then for a command's step, then for a step
of the system. -/

namespace Sys2Proof.Machine

open Sys2Proof

/-! ## From the writes of a (µ) step to a step of the system -/

/-- What the writes of every (µ) step but INIT's bring about, and finishing or moving on does not undo, holds after a
command's step that is not INIT's. -/
theorem exec_of_microEffect {P : State → Prop} {i : Instr} {s t : State} (h : exec i s = .next t)
    (hi : ¬AtPos .init s) (hP : ∀ q u, q.pos ≠ .init → MicroEffect q s u → P u)
    (hfinish : ∀ st rx u, P u → P (finish st rx u)) (hgoTo : ∀ q p l u, P u → P (goTo q p l u)) : P t := by
  obtain ⟨q, hq, -, hform⟩ := exec_next h
  have hpos : q.pos ≠ .init := fun hp => hi ⟨q, hq, hp⟩
  rcases hform with rfl | ⟨-, st, rx, rfl, -⟩ | ⟨-, p, l, u, rfl, hu⟩
  · exact hP q _ hpos .still
  · exact hfinish st rx s (hP q s hpos .still)
  · exact hgoTo q p l u (hP q u hpos hu)

/-- A host access moves neither line. -/
theorem levels_hostAccess {a : Access} {s t : State} (h : hostAccess a s = .next t) : levels t = levels s := by
  rcases hostAccess_next h with ⟨v, d, rfl⟩ | rfl | ⟨w, i, -, -, -, rfl⟩ | ⟨i, v, -, rfl⟩ <;> rfl

/-- A step of the system that is neither a reset nor INIT's moves no line, or is a command's step, or the
environment's. -/
theorem step_lines {s t : State} (h : step s = .next t) (hr : resetsNext s = false)
    (hi : ¬(enginesTurn s = true ∧ posOf s = .init)) :
    levels t = levels s ∨
      (∃ i, exec i { s with agenda := s.agenda.tail } = .next t ∧ ¬AtPos .init s) ∨
      ∃ line low, t = envStep line low { s with agenda := s.agenda.tail } := by
  obtain ⟨s', rfl, ⟨ha, h⟩ | ⟨line, low, -, -, ht⟩ | ⟨a, -, -, h⟩ | ⟨rest, ha, -⟩⟩ := step_next h
  · rcases engineTurn_next h with ⟨-, rfl⟩ | ⟨q, i, hb, hq, -, hx⟩
    · exact .inl rfl
    · have hturn : enginesTurn s = true := by
        rcases ha with ha | ⟨rest, ha⟩ <;> simpa [enginesTurn, ha] using hb
      refine .inr (.inl ⟨i, hx, ?_⟩)
      rintro ⟨q', hq', hp⟩
      exact hi ⟨hturn, by simpa [posOf, hq'] using hp⟩
  · exact .inr (.inr ⟨line, low, ht⟩)
  · have hl := levels_hostAccess h
    exact .inl hl
  · simp [resetsNext, ha] at hr

/-! ## At most one line moves -/

/-- From `s` to `t` at most one of the engine's two pulls changes. -/
def OnePullMoves (s t : State) : Prop := sclPulled t = sclPulled s ∨ sdaPulled t = sdaPulled s

/-- From `s` to `t` at most one of the sensed lines changes. -/
def OneLineMoves (s t : State) : Prop := sclLevel t = sclLevel s ∨ sdaLevel t = sdaLevel s

theorem OneLineMoves.of_levels {s t : State} (h : levels t = levels s) : OneLineMoves s t :=
  .inl (congrArg Levels.scl h)

/-- With the environment's inputs left alone, a line moves only by the engine's pull. -/
theorem OnePullMoves.oneLine {s t : State} (h : OnePullMoves s t) (hc : t.envSclLow = s.envSclLow)
    (hd : t.envSdaLow = s.envSdaLow) : OneLineMoves s t :=
  h.imp (fun hp => by simp [sclLevel, hp, hc]) fun hp => by simp [sdaLevel, hp, hd]

/-- Every write of a (µ) step but INIT's is to one line's driver: the clock's port, or the data line's port, direction or
shift register. -/
theorem MicroEffect.onePullMoves {q : Sequencer} {s u : State} (h : MicroEffect q s u) (hi : q.pos ≠ .init) :
    OnePullMoves s u := by
  cases h with
  | init hp => exact absurd hp hi
  | sclPort | toggle => right; simp [sdaPulled]
  | sdaPort | sdaIn | sdaOut | loadSR | shift => left; simp [sclPulled]
  | still | preload | stopVerify | sample | store => exact .inl rfl

theorem MicroEffect.env {q : Sequencer} {s u : State} (h : MicroEffect q s u) :
    u.envSclLow = s.envSclLow ∧ u.envSdaLow = s.envSdaLow := by
  cases h <;> simp

theorem exec_onePullMoves {i : Instr} {s t : State} (h : exec i s = .next t) (hi : ¬AtPos .init s) :
    OnePullMoves s t :=
  exec_of_microEffect h hi (fun _ _ hp hu => hu.onePullMoves hp) (fun _ _ _ hu => hu) fun _ _ _ _ hu => hu

theorem exec_oneLineMoves {i : Instr} {s t : State} (h : exec i s = .next t) (hi : ¬AtPos .init s) :
    OneLineMoves s t :=
  exec_of_microEffect h hi (fun _ _ hp hu => (hu.onePullMoves hp).oneLine hu.env.1 hu.env.2) (fun _ _ _ hu => hu)
    fun _ _ _ _ hu => hu

/-- An environment step sets the input it names and leaves the other alone. -/
theorem envStep_inputs (s : State) (low : Bool) :
    (envStep .scl low s).envSclLow = low ∧ (envStep .scl low s).envSdaLow = s.envSdaLow ∧
      (envStep .sda low s).envSdaLow = low ∧ (envStep .sda low s).envSclLow = s.envSclLow := by
  simp [envStep]

theorem envStep_oneLineMoves (line : Line) (low : Bool) (s : State) : OneLineMoves s (envStep line low s) := by
  cases line with
  | scl => right; simp [envStep, sdaLevel, sdaPulled]
  | sda => left; simp [envStep, sclLevel, sclPulled]

theorem step_oneLineMoves {s t : State} (h : step s = .next t) (hr : resetsNext s = false)
    (hi : ¬(enginesTurn s = true ∧ posOf s = .init)) : OneLineMoves s t := by
  rcases step_lines h hr hi with hl | ⟨i, hx, hp⟩ | ⟨line, low, rfl⟩
  · exact .of_levels hl
  · have hm := exec_oneLineMoves hx hp
    exact hm
  · exact envStep_oneLineMoves line low { s with agenda := s.agenda.tail }

/-! ## The detector sees every condition -/

/-- A condition the step from `s` to `t` shows is latched at `t` (R33, R34). -/
structure Latches (s t : State) : Prop where
  start : startSeen s t = true → t.sif = true
  stop : stopSeen s t = true → t.pf = true

/-- A step that moves neither line shows no condition. -/
theorem Latches.of_levels {s t : State} (h : levels t = levels s) : Latches s t := by
  have hd : sdaLevel t = sdaLevel s := congrArg Levels.sda h
  constructor <;> intro hs
  · cases hv : sdaLevel s <;> simp [startSeen, hd, hv] at hs
  · cases hv : sdaLevel s <;> simp [stopSeen, hd, hv] at hs

/-- Whatever a (µ) step writes, the detector is applied to its levels before and after. -/
theorem latches_micro (f : State → State) (s : State) : Latches s (micro f s) where
  start h := by
    have hf : startSeen s (f s) = true := by simpa [startSeen] using h
    simp [hf]
  stop h := by
    have hf : stopSeen s (f s) = true := by simpa [stopSeen] using h
    simp [hf]

/-- The steps that clear a flag after the detector move no line, INIT's excepted. -/
theorem MicroEffect.latches {q : Sequencer} {s u : State} (h : MicroEffect q s u) (hi : q.pos ≠ .init) :
    Latches s u := by
  cases h with
  | init hp => exact absurd hp hi
  | sclPort | toggle | sdaPort | sdaIn | sdaOut | loadSR | shift => exact latches_micro _ s
  | still | preload | stopVerify | sample | store => exact .of_levels rfl

theorem exec_latches {i : Instr} {s t : State} (h : exec i s = .next t) (hi : ¬AtPos .init s) : Latches s t :=
  exec_of_microEffect h hi (fun _ _ hp hu => hu.latches hp) (fun _ _ _ hu => ⟨hu.start, hu.stop⟩)
    fun _ _ _ _ hu => ⟨hu.start, hu.stop⟩

theorem envStep_latches (line : Line) (low : Bool) (s : State) : Latches s (envStep line low s) := by
  unfold envStep
  cases line <;> exact latches_micro _ s

theorem step_latches {s t : State} (h : step s = .next t) (hr : resetsNext s = false)
    (hi : ¬(enginesTurn s = true ∧ posOf s = .init)) : Latches s t := by
  rcases step_lines h hr hi with hl | ⟨i, hx, hp⟩ | ⟨line, low, rfl⟩
  · exact .of_levels hl
  · have hl := exec_latches hx hp
    exact ⟨hl.start, hl.stop⟩
  · have hl := envStep_latches line low { s with agenda := s.agenda.tail }
    exact ⟨hl.start, hl.stop⟩

/-! ## The statements -/

/-- Settles O38: the pulls by the writes each (µ) step can make, the levels by the agent that steps. -/
theorem atMostOneLineChanges : Obligations.AtMostOneLineChanges := by
  unfold Obligations.AtMostOneLineChanges
  exact ⟨fun _ _ _ => exec_onePullMoves, envStep_inputs, fun _ _ => step_oneLineMoves⟩

/-- Settles O39: every step but a reset and INIT's latches the condition it shows. -/
theorem detectorSeesConditions : Obligations.DetectorSeesConditions := by
  unfold Obligations.DetectorSeesConditions
  intro s t h hcfg hr hclk hclk'
  constructor
  · intro hsda hsda' hx
    have hi : ¬(enginesTurn s = true ∧ posOf s = .init) := fun ⟨ht, hp⟩ => hx ⟨ht, .inl hp⟩
    exact (step_latches h hr hi).start (by simp [startSeen, hcfg, hclk, hclk', hsda, hsda'])
  · intro hsda hsda' hx
    have hi : ¬(enginesTurn s = true ∧ posOf s = .init) := fun ⟨ht, hp⟩ => hx ⟨ht, .inl hp⟩
    exact (step_latches h hr hi).stop (by simp [stopSeen, hcfg, hclk, hclk', hsda, hsda'])

end Sys2Proof.Machine

/-! SUPPORT. The command words of 30_encoding.md: the fields of a word built from its parts (R72), which words R84 leaves
and that the decoder accepts exactly those, and that each of them lies in one row of spec/opcode_table.json (R75 to R79). -/

namespace Sys2Proof

open Sys2Proof.Machine

/-! ## A word and its fields -/

section Fields

variable (op : BitVec 4) (addr : BitVec 7) (stop : Bool) (count arg : BitVec 8)

theorem getLsbD_commandWord (k : Nat) :
    (commandWord op addr stop count arg).getLsbD k =
      if k < 8 then arg.getLsbD k else if k < 16 then count.getLsbD (k - 8) else if k < 20 then false
      else if k < 21 then stop else if k < 28 then addr.getLsbD (k - 21) else op.getLsbD (k - 28) := by
  simp only [commandWord, BitVec.getLsbD_append, BitVec.getLsbD_ofBool, Nat.sub_sub]
  grind

@[simp] theorem opField_commandWord : opField (commandWord op addr stop count arg) = op := by
  ext k hk
  simp only [opField, BitVec.getElem_extractLsb', getLsbD_commandWord]
  grind

@[simp] theorem addrField_commandWord : addrField (commandWord op addr stop count arg) = addr := by
  ext k hk
  simp only [addrField, BitVec.getElem_extractLsb', getLsbD_commandWord]
  grind

@[simp] theorem stopField_commandWord : stopField (commandWord op addr stop count arg) = stop := by
  rw [stopField, getLsbD_commandWord]
  rfl

@[simp] theorem reservedField_commandWord : reservedField (commandWord op addr stop count arg) = 0 := by
  ext k hk
  simp only [reservedField, BitVec.getElem_extractLsb', getLsbD_commandWord]
  grind

@[simp] theorem countField_commandWord : countField (commandWord op addr stop count arg) = count := by
  ext k hk
  simp only [countField, BitVec.getElem_extractLsb', getLsbD_commandWord]
  grind

@[simp] theorem argField_commandWord : argField (commandWord op addr stop count arg) = arg := by
  ext k hk
  simp only [argField, BitVec.getElem_extractLsb', getLsbD_commandWord]
  grind

end Fields

/-- A word whose reserved bits are 0 is put together again from its fields. -/
theorem commandWord_fields {w : Word} (h : reservedField w = 0) :
    commandWord (opField w) (addrField w) (stopField w) (countField w) (argField w) = w := by
  ext k hk
  have hz : (reservedField w).getLsbD (k - 16) = false := by simp [h]
  rw [← BitVec.getLsbD_eq_getElem, getLsbD_commandWord, ← BitVec.getLsbD_eq_getElem]
  simp only [reservedField, opField, addrField, stopField, countField, argField, BitVec.getLsbD_extractLsb'] at hz ⊢
  grind

/-- An ARG field with nothing above its low four bits, as TRANSFER's (R76). -/
theorem append_low_nibble {a : BitVec 8} (h : a.extractLsb' 4 4 = 0) : 0#4 ++ a.extractLsb' 0 4 = a := by
  have hz : 0#4 = a.extractLsb' 4 4 := h.symm
  rw [hz]
  exact (BitVec.extractLsb'_append_extractLsb'_eq_extractLsb' rfl).trans BitVec.extractLsb'_eq_self

/-- An ARG field with nothing above its lowest bit, as READ_BYTE's (R77). -/
theorem append_low_bit {a : BitVec 8} (h : a.extractLsb' 1 7 = 0) : 0#7 ++ BitVec.ofBool (a.getLsbD 0) = a := by
  have hz : 0#7 = a.extractLsb' 1 7 := h.symm
  have hb : BitVec.ofBool (a.getLsbD 0) = a.extractLsb' 0 1 := by
    ext k hk
    simp [Nat.lt_one_iff.mp hk]
  rw [hz, hb]
  exact (BitVec.extractLsb'_append_extractLsb'_eq_extractLsb' rfl).trans BitVec.extractLsb'_eq_self

/-! ## The words R84 reserves and the words it leaves -/

/-- R84's list, as the statement writes it. -/
def ReservedWord (w : Word) : Prop :=
  opField w = 0 ∨ 9 ≤ (opField w).toNat ∨ reservedField w ≠ 0 ∨
  ((opField w).toNat ≤ 6 ∧ (addrField w ≠ 0 ∨ stopField w = true ∨ countField w ≠ 0)) ∨
  ((opField w).toNat ∉ [4, 5, 6] ∧ argField w ≠ 0) ∨
  (opField w = 4 ∧ ((argField w).extractLsb' 4 4 ≠ 0 ∨ ¬(1 ≤ ((argField w).extractLsb' 0 4).toNat ∧
    ((argField w).extractLsb' 0 4).toNat ≤ 8))) ∨
  (opField w = 5 ∧ (argField w).extractLsb' 1 7 ≠ 0) ∨
  (opField w = 8 ∧ countField w = 0)

/-- What R84 leaves: an opcode of R73, every unused field 0, and the operands of TRANSFER and READ_TXN in range. -/
structure UsableWord (w : Word) : Prop where
  opcode_ne_zero : opField w ≠ 0
  opcode_lt : (opField w).toNat < 9
  reserved : reservedField w = 0
  txnFields : (opField w).toNat ≤ 6 → addrField w = 0 ∧ stopField w = false ∧ countField w = 0
  arg : (opField w).toNat ∉ [4, 5, 6] → argField w = 0
  transfer : opField w = 4 → (argField w).extractLsb' 4 4 = 0 ∧ 1 ≤ ((argField w).extractLsb' 0 4).toNat ∧
    ((argField w).extractLsb' 0 4).toNat ≤ 8
  readByte : opField w = 5 → (argField w).extractLsb' 1 7 = 0
  readTxn : opField w = 8 → countField w ≠ 0

theorem not_reservedWord_iff (w : Word) : ¬ReservedWord w ↔ UsableWord w := by
  unfold ReservedWord
  constructor
  · intro h
    constructor <;> grind
  · rintro ⟨h0, hlt, hz, htxn, harg, htransfer, hread, hcount⟩
    grind

theorem opField_cases (w : Word) :
    opField w = 0 ∨ opField w = 1 ∨ opField w = 2 ∨ opField w = 3 ∨ opField w = 4 ∨ opField w = 5 ∨ opField w = 6 ∨
      opField w = 7 ∨ opField w = 8 ∨ 9 ≤ (opField w).toNat := by
  generalize opField w = op
  revert op
  decide

/-- A usable word that is no transaction has OP and ARG only. -/
theorem UsableWord.eq_op_arg {w : Word} (h : UsableWord w) (ho : (opField w).toNat ≤ 6) :
    commandWord (opField w) 0 false 0 (argField w) = w := by
  obtain ⟨ha, hs, hc⟩ := h.txnFields ho
  simpa only [ha, hs, hc] using commandWord_fields h.reserved

/-- A usable word of a command without an operand in ARG has ARG = 0. -/
theorem UsableWord.eq_without_arg {w : Word} (h : UsableWord w) (ho : (opField w).toNat ∉ [4, 5, 6]) :
    commandWord (opField w) (addrField w) (stopField w) (countField w) 0 = w := by
  simpa only [h.arg ho] using commandWord_fields h.reserved

/-- READ_TXN's operand is in range when COUNT is not 0 (R84). -/
theorem wellFormed_readTxn (addr : BitVec 7) (stop : Bool) (count : BitVec 8) :
    wellFormed (.readTxn addr stop count) = true ↔ count ≠ 0#8 := by
  rw [wellFormed, decide_eq_true_iff, Nat.one_le_iff_ne_zero, BitVec.toNat_ne]
  rfl

/-- Every usable word is the word of a command. -/
theorem UsableWord.exists_encode_eq {w : Word} (h : UsableWord w) : ∃ i, WellFormed i ∧ encode i = w := by
  rcases opField_cases w with ho | ho | ho | ho | ho | ho | ho | ho | ho | ho
  · exact absurd ho h.opcode_ne_zero
  · have hw := h.eq_op_arg (by simp [ho])
    exact ⟨.init, rfl, by rwa [ho, h.arg (by simp [ho])] at hw⟩
  · have hw := h.eq_op_arg (by simp [ho])
    exact ⟨.start, rfl, by rwa [ho, h.arg (by simp [ho])] at hw⟩
  · have hw := h.eq_op_arg (by simp [ho])
    exact ⟨.stop, rfl, by rwa [ho, h.arg (by simp [ho])] at hw⟩
  · have hw := h.eq_op_arg (by simp [ho])
    obtain ⟨hhigh, hn, hn'⟩ := h.transfer ho
    have hwf : WellFormed (.transfer ((argField w).extractLsb' 0 4)) := by
      rw [WellFormed, wellFormed, decide_eq_true hn, decide_eq_true hn', Bool.and_self]
    exact ⟨_, hwf, by rwa [ho, ← append_low_nibble hhigh] at hw⟩
  · have hw := h.eq_op_arg (by simp [ho])
    exact ⟨.readByte ((argField w).getLsbD 0), rfl, by rwa [ho, ← append_low_bit (h.readByte ho)] at hw⟩
  · have hw := h.eq_op_arg (by simp [ho])
    exact ⟨.writeByte (argField w), rfl, by rwa [ho] at hw⟩
  · have hw := h.eq_without_arg (by simp [ho])
    exact ⟨.writeTxn (addrField w) (stopField w) (countField w), rfl, by rwa [ho] at hw⟩
  · have hw := h.eq_without_arg (by simp [ho])
    exact ⟨_, (wellFormed_readTxn ..).mpr (h.readTxn ho), by rwa [ho] at hw⟩
  · exact absurd h.opcode_lt (not_lt.mpr ho)

/-! ## The decoder accepts the usable words -/

theorem decode_encode {i : Instr} (h : WellFormed i) : decode (encode i) = .ok i := by
  cases i with
  | init | start | stop => rfl
  | transfer n =>
    have hhigh : (0#4 ++ n).extractLsb' 4 4 = 0#4 := BitVec.extractLsb'_append_eq_left
    have hlow : (0#4 ++ n).extractLsb' 0 4 = n := BitVec.extractLsb'_append_eq_right
    simpa [decode, encode, noTxnFields, hhigh, hlow] using h
  | readByte more => cases more <;> rfl
  | writeByte v => simp [decode, encode, noTxnFields, whenUnusedZero]
  | writeTxn addr stop count => simp [decode, encode, whenUnusedZero]
  | readTxn addr stop count => simpa [decode, encode, wellFormed_readTxn] using h

theorem ite_error_eq_ok {p : Prop} [Decidable p] {x : Except Reserved Instr} {e : Reserved} {i : Instr} :
    (if p then x else .error e) = .ok i ↔ p ∧ x = .ok i := by
  split <;> simp [*]

theorem noTxnFields_iff (w : Word) :
    noTxnFields w = true ↔ addrField w = 0 ∧ stopField w = false ∧ countField w = 0 := by
  simp [noTxnFields, and_assoc]

theorem decode_of_nine_le {w : Word} (h : 9 ≤ (opField w).toNat) : decode w = .error .opcode := by
  unfold decode
  split
  case h_9 => rfl
  all_goals omega

/-- The conditions under which each opcode's arm of the decoder accepts are those of a usable word. -/
theorem UsableWord.of_decode {w : Word} {i : Instr} (h : decode w = .ok i) : UsableWord w := by
  rcases opField_cases w with ho | ho | ho | ho | ho | ho | ho | ho | ho | ho
  on_goal 10 => simp [decode_of_nine_le ho] at h
  on_goal 9 =>
    simp only [decode, ho, BitVec.reduceToNat, ite_error_eq_ok, wellFormed_readTxn, Bool.and_eq_true,
      decide_eq_true_eq] at h
    constructor <;> simp [ho, h]
  on_goal 5 =>
    simp only [decode, ho, BitVec.reduceToNat, ite_error_eq_ok, noTxnFields_iff, wellFormed, Bool.and_eq_true,
      decide_eq_true_eq] at h
    constructor <;> simp [ho, h]
  all_goals simp [decode, ho, whenUnusedZero, ite_error_eq_ok, noTxnFields_iff] at h
  all_goals constructor <;> simp [ho, h]

theorem usableWord_iff (w : Word) : UsableWord w ↔ ∃ i, decode w = .ok i where
  mp h := by
    obtain ⟨i, hi, rfl⟩ := h.exists_encode_eq
    exact ⟨i, decode_encode hi⟩
  mpr := fun ⟨_, h⟩ => .of_decode h

theorem reservedWord_iff (w : Word) : ReservedWord w ↔ ∀ i, decode w ≠ .ok i := by
  rw [← not_iff_not, not_reservedWord_iff, usableWord_iff]
  simp

/-! ## One row of the opcode table -/

/-- The rows (match, mask) of spec/opcode_table.json, in the order of R75 to R79. -/
def opcodeRows : List (Word × Word) :=
  [(0x10000000, 0xFFFFFFFF), (0x20000000, 0xFFFFFFFF), (0x30000000, 0xFFFFFFFF), (0x40000000, 0xFFFFFFF0),
   (0x50000000, 0xFFFFFFFE), (0x60000000, 0xFFFFFF00), (0x70000000, 0xF00F00FF), (0x80000000, 0xF00F00FF)]

/-- The word lies in the row. -/
def InRow (w : Word) (r : Word × Word) : Prop := w &&& r.2 = r.1

/-- The command's own row. -/
def rowOf (i : Instr) : Word × Word := (Laws.TableRow.pattern i, Laws.TableRow.mask i)

theorem rowOf_mem (i : Instr) : rowOf i ∈ opcodeRows := by
  cases i <;> simp [rowOf, opcodeRows, Laws.TableRow.pattern, Laws.TableRow.mask]

theorem encode_inRow {i : Instr} (h : WellFormed i) : InRow (encode i) (rowOf i) := by
  cases i with
  | init => exact Laws.TableRow.init h
  | start => exact Laws.TableRow.start h
  | stop => exact Laws.TableRow.stop h
  | transfer n => exact Laws.TableRow.transfer n h
  | readByte more => exact Laws.TableRow.readByte more h
  | writeByte v => exact Laws.TableRow.writeByte v h
  | writeTxn addr stop count => exact Laws.TableRow.writeTxn addr stop count h
  | readTxn addr stop count => exact Laws.TableRow.readTxn addr stop count h

theorem opcodeRows_opFields : (opcodeRows.map fun r => opField r.1) = [1, 2, 3, 4, 5, 6, 7, 8] := rfl

theorem opcodeRows_opFields_nodup : (opcodeRows.map fun r => opField r.1).Nodup := by
  rw [opcodeRows_opFields]
  decide

/-- Every mask covers OP, so a row fixes the opcode of the words in it. -/
theorem InRow.opField_eq {w : Word} {r : Word × Word} (h : InRow w r) (hr : r ∈ opcodeRows) :
    opField w = opField r.1 := by
  have hm : r.2.extractLsb' 28 4 = BitVec.allOnes 4 := by fin_cases hr <;> rfl
  rw [← (h : w &&& r.2 = r.1), opField, opField, BitVec.extractLsb'_and, hm, BitVec.and_allOnes]

theorem encode_inRow_iff {i : Instr} (h : WellFormed i) {r : Word × Word} (hr : r ∈ opcodeRows) :
    InRow (encode i) r ↔ r = rowOf i where
  mp hin :=
    have hop : opField r.1 = opField (rowOf i).1 :=
      (hin.opField_eq hr).symm.trans ((encode_inRow h).opField_eq (rowOf_mem i))
    List.inj_on_of_nodup_map opcodeRows_opFields_nodup hr (rowOf_mem i) hop
  mpr he := he ▸ encode_inRow h

theorem length_rows_of_encode {i : Instr} (h : WellFormed i) :
    (opcodeRows.filter fun r => decide (encode i &&& r.2 = r.1)).length = 1 := by
  have hfilter : (opcodeRows.filter fun r => decide (encode i &&& r.2 = r.1)) = opcodeRows.filter (· == rowOf i) :=
    List.filter_congr fun r hr => by
      rw [beq_eq_decide]
      exact decide_eq_decide.mpr (encode_inRow_iff h hr)
  rw [hfilter, ← List.count_eq_length_filter]
  exact List.count_eq_one_of_mem opcodeRows_opFields_nodup.of_map (rowOf_mem i)

/-! ## The statement -/

/-- A CMD write of a word the decoder rejects, in every state (R142). -/
theorem hostAccess_cmd_rejected {w : Word} (h : ∀ i, decode w ≠ .ok i) (s : State) :
    hostAccess (.write 0x000 4 w) s = .refused (if s.busy then .commandWhileBusy else .reservedCommand) := by
  change cmdWrite w s = _
  unfold cmdWrite
  split
  · rfl
  · cases hd : decode w with
    | error e => rfl
    | ok i => exact absurd hd (h i)

/-- Settles O3: the decoder accepts exactly the words R84 leaves, each is some command's word, and the rows of the table
differ in OP. -/
theorem reservedWordsAreThoseListed : Obligations.ReservedWordsAreThoseListed := by
  unfold Obligations.ReservedWordsAreThoseListed
  intro w
  refine ⟨reservedWord_iff w, fun hr s => ?_, fun hr => ?_⟩
  · have hrefused := hostAccess_cmd_rejected ((reservedWord_iff w).mp hr) s
    refine ⟨⟨_, hrefused⟩, fun hb _ => ?_, fun hb _ => .inl ?_⟩ <;> simpa [hb] using hrefused
  · obtain ⟨i, hi, rfl⟩ := ((not_reservedWord_iff w).mp hr).exists_encode_eq
    exact length_rows_of_encode hi

end Sys2Proof

/-! SUPPORT. The acknowledgement clock of a byte the engine receives (41_byte_layer.md R104, 42_transaction_layer.md
R118): READ_BYTE and a READ_TXN's byte take ReadByte's steps, each with its own answer to whether another byte is
expected. -/

namespace Sys2Proof.Machine

open Sys2Proof

/-- With the locals `l`, the command `i` takes the steps that go on within ReadByte(more). -/
def RunsReadByte (i : Instr) (more : Bool) (l : Locals) : Prop :=
  ∀ {s t : State} {w : Word} {p p' : ReadPos} {l' : Locals},
    s.seq = some { curCmd := w, pos := .readByte p, loc := l } → readByteStep more p l s = .goto p' l' t →
      exec i s = .next (goTo { curCmd := w, pos := .readByte p, loc := l } (.readByte p') l' t)

theorem runsReadByte_readByte (more : Bool) (l : Locals) : RunsReadByte (.readByte more) more l := by
  intro s t w p p' l' hs hstep
  change execReadByte more s = _
  rw [execReadByte, withSeq_some _ hs]
  simp only [hstep, runStep]

/-- READ_TXN expects another byte after every byte but the last. -/
theorem runsReadByte_readTxn {addr : BitVec 7} {stop : Bool} {count : BitVec 8}
    (hwf : WellFormed (.readTxn addr stop count)) (l : Locals) :
    RunsReadByte (.readTxn addr stop count) (moreBytes l.i count) l := by
  intro s t w p p' l' hs hstep
  change execReadTxn addr stop count s = _
  rw [execReadTxn, if_pos hwf, withSeq_some _ hs]
  simp only [hstep, runStep]

theorem execSteps_succ {i : Instr} {s t : State} (h : exec i s = .next t) (k : Nat) :
    execSteps i (k + 1) s = execSteps i k t := by
  rw [execSteps, h]

/-- From the load of the pattern to the acknowledgement clock: the load, the preload, the setup delay, the toggle that
releases the clock. SR keeps the pattern, so SDA is pulled exactly when it is the ACK. -/
theorem exists_ackClock {i : Instr} {more : Bool} {q : Sequencer} {s : State} (hi : RunsReadByte i more q.loc)
    (hs : s.seq = some q) (hpos : q.pos = .readByte .loadAck) (hb : boundaryOk s = true) (hclk : s.sclPort = false)
    (hpeer : s.envSclLow = false) :
    ∃ t, execSteps i 4 s = .next t ∧ AtPos (.readByte (.ack .sample)) t ∧ sclLevel t = true ∧ sdaPulled t = more := by
  obtain ⟨w, pos, l⟩ := q
  subst hpos
  obtain ⟨-, hdir, -, hport⟩ := boundaryOk_iff.mp hb
  rw [execSteps_succ (hi hs rfl), execSteps_succ (hi rfl rfl), execSteps_succ (hi rfl rfl),
    execSteps_succ (hi rfl rfl)]
  refine ⟨_, rfl, ⟨_, rfl, rfl⟩, ?_, ?_⟩
  · simp [sclLevel, sclPulled, hclk, hpeer]
  · cases more <;> simp [sdaPulled, ackPattern, hdir, hport]

/-- Settles O22: both commands run ReadByte's steps, READ_BYTE with its operand and READ_TXN with `moreBytes`. -/
theorem receiverAcknowledgesAllButTheLast : Obligations.ReceiverAcknowledgesAllButTheLast := by
  unfold Obligations.ReceiverAcknowledgesAllButTheLast
  rintro s ⟨q, hs, hpos⟩ hb hclk hpeer
  refine ⟨fun more => exists_ackClock (runsReadByte_readByte more q.loc) hs hpos hb hclk hpeer, ?_⟩
  intro addr stop count q' hwf hs'
  obtain rfl : q = q' := Option.some.inj (hs.symm.trans hs')
  exact exists_ackClock (runsReadByte_readTxn hwf q.loc) hs hpos hb hclk hpeer

end Sys2Proof.Machine

/-! SUPPORT. The register layer's host sequences (43_register_layer.md): what a sequence that returns passed through, that
readRegister leaves the engine idle, and the shared form of setBits, clearBits and maskedSet after either outcome of the
read. -/

namespace Sys2Proof.Machine

open Sys2Proof

/-! ## Host sequences that return -/

@[simp] theorem HostRun.andThen_done {α β : Type} (a : α) (s : State) (k : α → State → HostRun β) :
    (HostRun.done a s).andThen k = k a s := rfl

/-- A sequence returns exactly when its first part returns and the rest, from there, returns. -/
theorem HostRun.andThen_eq_done {α β : Type} {x : HostRun α} {k : α → State → HostRun β} {b : β} {t : State} :
    x.andThen k = .done b t ↔ ∃ a s, x = .done a s ∧ k a s = .done b t := by
  cases x <;> simp [HostRun.andThen]

/-- An ISSUE (R88) that returns found BUSY = 0, as it ends in a WAIT. -/
theorem hostIssue_done {bound : Nat} {c : Instr} {s t : State} {r : Unit} (h : hostIssue bound c s = .done r t) :
    t.busy = false := by
  obtain ⟨v, s1, -, hwait⟩ := HostRun.andThen_eq_done.mp h
  exact hostWait_done hwait

/-- Both phases of readRegister (R124) end in an ISSUE and reads, so it leaves BUSY = 0. -/
theorem readRegister_done {bound : Nat} {addr : BitVec 7} {reg : Byte} {s t : State} {r : Byte × Byte}
    (h : readRegister bound addr reg s = .done r t) : t.busy = false := by
  obtain ⟨_, s1, _, h⟩ := HostRun.andThen_eq_done.mp h
  obtain ⟨_, s2, hwrite, h⟩ := HostRun.andThen_eq_done.mp h
  have hb2 : s2.busy = false := hostIssue_done hwrite
  rw [hostGetCode_done, HostRun.andThen_done] at h
  split at h
  · rw [hostBufR_done 0 (by exact hb2)] at h
    cases h
    exact hb2
  · obtain ⟨_, s4, hread, h⟩ := HostRun.andThen_eq_done.mp h
    have hb4 : s4.busy = false := hostIssue_done hread
    rw [hostGetCode_done, HostRun.andThen_done, hostBufR_done 0 (by exact hb4)] at h
    cases h
    exact hb4

/-! ## setBits, clearBits and maskedSet -/

section Modify

variable {bound : Nat} {addr : BitVec 7} {reg b code : Byte} {s t : State}

/-- R130: after a failed read nothing more happens. -/
theorem modifyRegister_of_failed_read (f : Byte → Byte) (h : readRegister bound addr reg s = .done (b, code) t)
    (hc : code ≠ 0) : modifyRegister bound addr reg f s = .done code t := by
  rw [modifyRegister, h, HostRun.andThen_done, if_pos hc]

/-- After a read with status Ok the two bytes are put in BUF and written to the device (R126 to R128). -/
theorem modifyRegister_of_ok_read (f : Byte → Byte) (h : readRegister bound addr reg s = .done (b, 0) t) :
    modifyRegister bound addr reg f s =
      (hostIssue bound (.writeTxn addr true 2) (bufWrite 1 (f b) (bufWrite 0 reg t))).andThen
        fun _ v => hostGetCode v := by
  have hb : t.busy = false := readRegister_done h
  rw [modifyRegister, h, HostRun.andThen_done, if_neg (by simp), hostBufW_done 0 reg hb, HostRun.andThen_done,
    hostBufW_done 1 (f b) (by exact hb), HostRun.andThen_done]

end Modify

/-- The bytes of BUF after a write of BUF[0] and a write of BUF[1]. -/
theorem bufRead_bufWrite_zero_one (v w : Byte) (t : State) :
    bufRead 0 (bufWrite 1 w (bufWrite 0 v t)) = v ∧ bufRead 1 (bufWrite 1 w (bufWrite 0 v t)) = w ∧
      ∀ j, j ≠ 0 → j ≠ 1 → bufRead j (bufWrite 1 w (bufWrite 0 v t)) = bufRead j t := by
  refine ⟨?_, ?_, fun j h0 h1 => ?_⟩
  · simp [bufRead_bufWrite]
  · simp [bufRead_bufWrite]
  · rw [bufRead_bufWrite, if_neg h1, bufRead_bufWrite, if_neg h0]

/-! ## The new values, bit by bit -/

theorem getLsbD_setBitsValue (mask v : Byte) (k : Nat) :
    (setBitsValue mask v).getLsbD k = (v.getLsbD k || mask.getLsbD k) := BitVec.getLsbD_or

theorem getLsbD_clearBitsValue (mask v : Byte) {k : Nat} (hk : k < 8) :
    (clearBitsValue mask v).getLsbD k = (v.getLsbD k && !mask.getLsbD k) := by
  simp [clearBitsValue, hk]

/-- maskedSet's value is clearBits' value with `bits` set in it. -/
theorem maskedSetValue_eq (mask bits v : Byte) :
    maskedSetValue mask bits v = setBitsValue bits (clearBitsValue mask v) := rfl

theorem getLsbD_maskedSetValue (mask bits v : Byte) {k : Nat} (hk : k < 8) :
    (maskedSetValue mask bits v).getLsbD k = (v.getLsbD k && !mask.getLsbD k || bits.getLsbD k) := by
  rw [maskedSetValue_eq, getLsbD_setBitsValue, getLsbD_clearBitsValue mask v hk]

/-- Settles O59: the three sequences are `modifyRegister` at their formulas; readRegister leaves BUSY = 0, so both writes
of BUF go through. -/
theorem registerUpdatesFollowTheFormulas : Obligations.RegisterUpdatesFollowTheFormulas := by
  unfold Obligations.RegisterUpdatesFollowTheFormulas
  refine ⟨by decide, fun mask bits v k hk => ⟨getLsbD_setBitsValue mask v k, getLsbD_clearBitsValue mask v hk,
    getLsbD_maskedSetValue mask bits v hk⟩, ?_⟩
  intro bound addr reg mask bits b code s t hread result value hcases
  obtain ⟨f, rfl, rfl⟩ : ∃ f, result = modifyRegister bound addr reg f s ∧ value = f b := by
    obtain h | h | h := hcases
    · exact ⟨setBitsValue mask, h⟩
    · exact ⟨clearBitsValue mask, h⟩
    · exact ⟨maskedSetValue mask bits, h⟩
  refine ⟨modifyRegister_of_failed_read f hread, ?_⟩
  rintro rfl
  obtain ⟨hreg, hvalue, hother⟩ := bufRead_bufWrite_zero_one reg (f b) t
  exact ⟨_, hreg, hvalue, hother, rfl, modifyRegister_of_ok_read f hread⟩

end Sys2Proof.Machine

/-! SUPPORT. The refusals of the host's accesses (60_exceptions.md R142), one layer at a time: of an access's form
(`hostReg`), of a CMD write (`cmdWrite`), of a read and of a write (`hostAccess`). For each layer, which reason is
answered, and when there is one at all. -/

namespace Sys2Proof.Machine

open Sys2Proof

section Refusals

variable {off width : Nat} {w : Word} {s : State} {r : Refusal}

/-- An access of width other than 4, or misaligned (R57). -/
def Misaccess (off width : Nat) : Prop := width ≠ 4 ∨ off % 4 ≠ 0

/-- The offsets of the register table (R45); every other offset is reserved (R59). -/
def DefinedOffset (off : Nat) : Prop := off ∈ [0x000, 0x004, 0x008, 0x00C, 0x010] ∨ (0x400 ≤ off ∧ off < 0x800)

theorem DefinedOffset.lt (h : DefinedOffset off) : off < 0x800 := by
  simp only [DefinedOffset, List.mem_cons, List.not_mem_nil, or_false] at h
  omega

/-! ## The register at an offset -/

/-- The two refusals of an access's form, in the order of log 11. -/
theorem hostReg_eq_error_iff : hostReg off width = .error r ↔
    (r = .badAccess ∧ Misaccess off width) ∨ (r = .reservedOffset ∧ ¬Misaccess off width ∧ ¬DefinedOffset off) := by
  unfold hostReg Misaccess
  split_ifs <;> simp_all [DefinedOffset, Config.regSpaceBytes, eq_comm (a := r)]

theorem hostReg_refused_iff : (∃ r, hostReg off width = .error r) ↔ Misaccess off width ∨ ¬DefinedOffset off := by
  simp only [hostReg_eq_error_iff]
  by_cases h : Misaccess off width <;> simp [h]

theorem hostReg_eq_cmd_iff : hostReg off width = .ok .cmd ↔ ¬Misaccess off width ∧ off = 0x000 := by
  unfold hostReg Misaccess
  split_ifs <;> simp_all

theorem hostReg_eq_buf_iff :
    (∃ i, hostReg off width = .ok (.buf i)) ↔ ¬Misaccess off width ∧ 0x400 ≤ off ∧ off < 0x800 := by
  unfold hostReg Misaccess
  split_ifs <;> simp_all [Config.regSpaceBytes]

/-! ## A CMD write -/

/-- The three refusals of a CMD write (R46), in the order of log 11. -/
theorem cmdWrite_eq_refused_iff : cmdWrite w s = .refused r ↔
    (r = .commandWhileBusy ∧ s.busy = true) ∨
      (r = .reservedCommand ∧ s.busy = false ∧ ∀ i, decode w ≠ .ok i) ∨
      (r = .notInitialised ∧ s.busy = false ∧ s.cfg = false ∧ ∃ i, decode w = .ok i ∧ i ≠ .init) := by
  unfold cmdWrite
  cases s.busy with
  | true => simp [eq_comm (a := r)]
  | false =>
    cases decode w with
    | error e => simp [eq_comm (a := r)]
    | ok i => cases s.cfg <;> by_cases hi : i = .init <;> simp [hi, eq_comm (a := r)]

/-- A CMD write is refused exactly when one of its three reasons applies. -/
theorem cmdWrite_refused_iff : (∃ r, cmdWrite w s = .refused r) ↔
    s.busy = true ∨ (∀ i, decode w ≠ .ok i) ∨ (decode w ≠ .ok .init ∧ s.cfg = false) := by
  unfold cmdWrite
  cases s.busy with
  | true => simp
  | false =>
    cases decode w with
    | error e => simp
    | ok i => cases s.cfg <;> by_cases hi : i = .init <;> simp [hi]

/-! ## An access -/

/-- A read is refused for its form alone. -/
theorem hostAccess_read_eq_refused_iff :
    hostAccess (.read off width) s = .refused r ↔ hostReg off width = .error r := by
  simp only [hostAccess]
  cases hostReg off width <;> simp

theorem hostAccess_read_refused_iff : (∃ r, hostAccess (.read off width) s = .refused r) ↔
    Misaccess off width ∨ ¬DefinedOffset off := by
  simp only [hostAccess_read_eq_refused_iff, hostReg_refused_iff]

/-- A write is refused for its form, as a CMD write, or at BUF while BUSY = 1; the other registers ignore it. -/
theorem hostAccess_write_eq_refused_iff : hostAccess (.write off width w) s = .refused r ↔
    hostReg off width = .error r ∨
      (hostReg off width = .ok .cmd ∧ cmdWrite w s = .refused r) ∨
      (∃ i, hostReg off width = .ok (.buf i)) ∧ s.busy = true ∧ r = .bufferWriteWhileBusy := by
  simp only [hostAccess]
  cases hostReg off width with
  | error e => simp
  | ok reg =>
    cases reg with
    | buf i => cases hb : s.busy <;> simp [hostWrite, hb, eq_comm (a := r)]
    | _ => simp [hostWrite]

/-- A write is refused exactly when one of R142's reasons applies. Any other form being refused already, CMD and BUF are
told by the offset alone. -/
theorem hostAccess_write_refused_iff : (∃ r, hostAccess (.write off width w) s = .refused r) ↔
    (Misaccess off width ∨ ¬DefinedOffset off) ∨
      (off = 0x000 ∧ (s.busy = true ∨ (∀ i, decode w ≠ .ok i) ∨ (decode w ≠ .ok .init ∧ s.cfg = false))) ∨
      (0x400 ≤ off ∧ s.busy = true) := by
  simp only [hostAccess_write_eq_refused_iff, exists_or, exists_and_left, hostReg_refused_iff, cmdWrite_refused_iff,
    hostReg_eq_cmd_iff, hostReg_eq_buf_iff, exists_eq, and_true]
  refine or_congr_right' fun hform => ?_
  obtain ⟨hm, hd⟩ := not_or.mp hform
  have hbuf : off < 0x800 := (not_not.mp hd).lt
  simp [hm, hbuf]

/-- A BUF read while BUSY = 1 returns a free value (log 6). -/
theorem hostAccess_buf_read_busy (i : BitVec 8) (hb : s.busy = true) :
    hostAccess (.read (0x400 + 4 * i.toNat) 4) s =
      .next { s with hostData := Config.busyRead s.draws, draws := s.draws + 1 } := by
  simp only [hostAccess, hostReg_buf, hostRead, hb, if_true]

end Refusals

/-- Settles O47: layer by layer, the reason answered is one that applies, and a reason that applies makes the access
refused, for itself or for another. -/
theorem refusedAccessesAreThoseListed : Obligations.RefusedAccessesAreThoseListed := by
  unfold Obligations.RefusedAccessesAreThoseListed
  intro a s off width badAccess defined refusable
  have hsound : ∀ r, hostAccess a s = .refused r → refusable r := by
    intro r h
    cases a with
    | read off' width' =>
      obtain ⟨rfl, hm⟩ | ⟨rfl, -, hd⟩ := hostReg_eq_error_iff.mp (hostAccess_read_eq_refused_iff.mp h)
      · exact hm
      · exact hd
    | write off' width' w =>
      obtain herror | ⟨hreg, hcmd⟩ | ⟨hreg, hb, rfl⟩ := hostAccess_write_eq_refused_iff.mp h
      · obtain ⟨rfl, hm⟩ | ⟨rfl, -, hd⟩ := hostReg_eq_error_iff.mp herror
        · exact hm
        · exact hd
      · obtain ⟨-, rfl⟩ := hostReg_eq_cmd_iff.mp hreg
        obtain ⟨rfl, hb⟩ | ⟨rfl, -, hw⟩ | ⟨rfl, -, hc, i, hw, hi⟩ := cmdWrite_eq_refused_iff.mp hcmd
        · exact ⟨⟨w, rfl⟩, hb⟩
        · exact ⟨w, rfl, hw⟩
        · exact ⟨⟨w, rfl, fun hinit => hi (Except.ok.inj (hw.symm.trans hinit))⟩, hc⟩
      · obtain ⟨-, hoff, -⟩ := hostReg_eq_buf_iff.mp hreg
        exact ⟨⟨w, rfl⟩, hoff, hb⟩
  have hcomplete : ∀ r, refusable r → ∃ r, hostAccess a s = .refused r := by
    intro r h
    cases a with
    | read off' width' =>
      rw [hostAccess_read_refused_iff]
      cases r with
      | badAccess => exact .inl h
      | reservedOffset => exact .inr h
      | _ => simp [refusable] at h
    | write off' width' w =>
      rw [hostAccess_write_refused_iff]
      cases r with
      | badAccess => exact .inl (.inl h)
      | reservedOffset => exact .inl (.inr h)
      | commandWhileBusy =>
        obtain ⟨⟨_, ⟨⟩⟩, hb⟩ := h
        exact .inr (.inl ⟨rfl, .inl hb⟩)
      | bufferWriteWhileBusy =>
        obtain ⟨-, hoff, hb⟩ := h
        exact .inr (.inr ⟨hoff, hb⟩)
      | reservedCommand =>
        obtain ⟨_, ⟨⟩, hw⟩ := h
        exact .inr (.inl ⟨rfl, .inr (.inl hw)⟩)
      | notInitialised =>
        obtain ⟨⟨_, ⟨⟩, hw⟩, hc⟩ := h
        exact .inr (.inl ⟨rfl, .inr (.inr ⟨hw, hc⟩)⟩)
      | notModelled => exact h.elim
  exact ⟨⟨fun ⟨r, h⟩ => hcomplete r h, fun ⟨r, h⟩ => ⟨r, hsound r h⟩⟩, hsound,
    fun hb i => ⟨_, _, hostAccess_buf_read_busy i hb⟩⟩

end Sys2Proof.Machine

/-! SUPPORT. A reset (70_reset_and_hazards.md R151): the step it takes from the head of the agenda, the state it leaves, and
the host's reads of BUF while BUSY = 0, as it leaves it. -/

namespace Sys2Proof.Machine

open Sys2Proof

/-- A reset is taken whatever the engine is doing: no other field of the state decides whether the step goes through. -/
theorem step_of_reset_next {s : State} {rest : List Event} (h : s.agenda = .reset :: rest) :
    step s = .next (resetStep { s with agenda := rest }) := by
  simp only [step, nextStep, h, runEvent]

/-- R151: of the state before, a reset keeps the environment's inputs, the parameters and the model's own fields (log 21);
the trace of the lines grows when the release of the drivers moves one. -/
theorem resetStep_eq (s : State) : ∃ wire, resetStep s =
    { State.reset with
      envSclLow := s.envSclLow, envSdaLow := s.envSdaLow, params := s.params, hostData := s.hostData,
      draws := s.draws, epoch := s.epoch + 1, agenda := s.agenda, wire := wire } := by
  unfold resetStep recordLines
  split
  · exact ⟨s.wire, rfl⟩
  · exact ⟨_, rfl⟩

/-- A BUF read while BUSY = 0 returns the byte, zero-extended (R52). -/
theorem hostAccess_buf_read_idle {s : State} (i : BitVec 8) (hb : s.busy = false) :
    hostAccess (.read (0x400 + 4 * i.toNat) 4) s = .next { s with hostData := (bufRead i s).setWidth 32 } := by
  simp [hostAccess, hostReg_buf, hostRead, hb]

/-- Settles O8: the step is `resetStep`, which builds its state from `State.reset`; BUSY = 0 there, so BUF is readable. -/
theorem resetTakesEffectInEveryState : Obligations.ResetTakesEffectInEveryState := by
  unfold Obligations.ResetTakesEffectInEveryState
  intro s rest hagenda
  refine ⟨_, step_of_reset_next hagenda, ?_⟩
  obtain ⟨wire, hreset⟩ := resetStep_eq { s with agenda := rest }
  rw [hreset]
  exact ⟨rfl, rfl, rfl, rfl, rfl, rfl, rfl, rfl, rfl, rfl, rfl, rfl, rfl, rfl, rfl,
    fun i => ⟨_, hostAccess_buf_read_idle i rfl⟩⟩

end Sys2Proof.Machine

/-! SUPPORT. The encodings of 30_encoding.md: decode and encode are inverse to each other, and the words and
codes of the tables. -/

namespace Sys2Proof

open Sys2Proof.Machine

/-- Settles O1: field by field, the decoder reads back what the one format holds. -/
theorem encodedCommandDecodesBack : Obligations.EncodedCommandDecodesBack := by
  unfold Obligations.EncodedCommandDecodesBack
  exact fun _ => decode_encode

/-- A word that decodes is usable, a usable word is some command's, and that command is what it decodes to. -/
theorem wellFormed_of_decode {w : Word} {i : Instr} (h : decode w = .ok i) : WellFormed i ∧ encode i = w := by
  obtain ⟨j, hj, rfl⟩ := (UsableWord.of_decode h).exists_encode_eq
  obtain rfl : j = i := Except.ok.inj ((decode_encode hj).symm.trans h)
  exact ⟨hj, rfl⟩

/-- Settles O2. -/
theorem decodedWordIsItsEncoding : Obligations.DecodedWordIsItsEncoding := by
  unfold Obligations.DecodedWordIsItsEncoding
  exact fun _ _ => wellFormed_of_decode

/-- Settles O4: the twelve words, evaluated. -/
theorem specWordsDecodeAsListed : Obligations.SpecWordsDecodeAsListed := by
  unfold Obligations.SpecWordsDecodeAsListed
  decide

theorem toNat_encStatus_lt (st : Status) : (encStatus st).toNat < 7 := by
  cases st <;> decide

theorem encStatus_injective : Function.Injective encStatus := by
  intro s t h
  cases s <;> cases t <;> simp [encStatus] at h ⊢

/-- Settles O5: the table, and that its seven codes differ. -/
theorem statusCodesAreTheTable : Obligations.StatusCodesAreTheTable := by
  unfold Obligations.StatusCodesAreTheTable
  exact ⟨rfl, rfl, rfl, rfl, rfl, rfl, rfl, toNat_encStatus_lt, fun _ _ h => encStatus_injective h⟩

end Sys2Proof

/-! SUPPORT. The invariant of the engine: each clause of it taken apart, that every step of every agent keeps it, and
what follows for the answers of a running command: progress, hangs, codes. -/

namespace Sys2Proof.Machine

open Sys2Proof

/-! ## The canonical form of BUF -/

theorem MicroEffect.wf_buf {q : Sequencer} {s u : State} (h : MicroEffect q s u) (hs : Memory.wf s.buf = true) :
    Memory.wf u.buf = true := by
  cases h with
  | store => exact wf_bufInsert _ _ hs
  | _ => simpa using hs

theorem exec_wf_buf {i : Instr} {s t : State} (h : exec i s = .next t) (hs : Memory.wf s.buf = true) :
    Memory.wf t.buf = true := by
  obtain ⟨q, -, -, rfl | ⟨-, st, rx, rfl, -⟩ | ⟨-, p, l, u, rfl, hu⟩⟩ := exec_next h
  · exact hs
  · exact hs
  · exact hu.wf_buf hs

theorem hostAccess_wf_buf {a : Access} {s t : State} (h : hostAccess a s = .next t) (hs : Memory.wf s.buf = true) :
    Memory.wf t.buf = true := by
  obtain ⟨v, d, rfl⟩ | rfl | ⟨w, i, -, -, -, rfl⟩ | ⟨i, v, -, rfl⟩ := hostAccess_next h
  · exact hs
  · exact hs
  · exact hs
  · exact wf_bufInsert _ _ hs

theorem envStep_buf (line : Line) (low : Bool) (s : State) : (envStep line low s).buf = s.buf := by
  cases line <;> simp [envStep]

theorem resetStep_buf (s : State) : (resetStep s).buf = [] := by simp [resetStep, State.reset]

/-- Settles O54: only READ_TXN's store step and a host's BUF write change the list, both by `bufInsert`; a reset empties
it. -/
theorem everyStepKeepsTheBufferForm : Obligations.EveryStepKeepsTheBufferForm := by
  unfold Obligations.EveryStepKeepsTheBufferForm
  intro s t hs h
  obtain ⟨s', rfl, ⟨-, h⟩ | ⟨line, low, -, -, rfl⟩ | ⟨a, -, -, h⟩ | ⟨-, -, rfl⟩⟩ := step_next h
  · obtain ⟨-, rfl⟩ | ⟨q, i, -, -, -, hx⟩ := engineTurn_next h
    · exact hs
    · exact exec_wf_buf hx hs
  · rwa [envStep_buf]
  · exact hostAccess_wf_buf h hs
  · rw [resetStep_buf]
    rfl

/-! ## The invariant, taken apart -/

/-- The command `i` runs at the position of `q`, with what the invariant says of that position. -/
structure Running (i : Instr) (q : Sequencer) (s : State) : Prop where
  seq : s.seq = some q
  busy : s.busy = true
  decode : decode q.curCmd = .ok i
  cfg : s.cfg = true ∨ q.pos = .init
  pos : posOk false i q s = true

/-- No command runs, and the drivers of a configured engine are those of a command boundary (R95). -/
structure Idle (s : State) : Prop where
  seq : s.seq = none
  busy : s.busy = false
  boundary : s.cfg = true → boundaryOk s = true

theorem sequencerOk_iff {s : State} : sequencerOk s = true ↔ Idle s ∨ ∃ i q, Running i q s := by
  unfold sequencerOk
  constructor
  · intro h
    split at h
    · rename_i hs
      simp only [Bool.and_eq_true, Bool.not_eq_true', Bool.or_eq_true] at h
      exact .inl ⟨hs, h.1, fun hc => h.2.resolve_left (by simp [hc])⟩
    · rename_i q hs
      rw [Bool.and_eq_true] at h
      obtain ⟨hb, h⟩ := h
      split at h
      · cases h
      · rename_i i hd
        simp only [Bool.and_eq_true, Bool.or_eq_true, decide_eq_true_eq] at h
        exact .inr ⟨i, q, hs, hb, hd, h.1, h.2⟩
  · rintro (⟨hs, hb, hc⟩ | ⟨i, q, hs, hb, hd, hc, hp⟩)
    · rw [hs]
      cases hcfg : s.cfg <;> simp [hb, hc, hcfg]
    · rw [hs]
      simp only [hd, hb, hp, Bool.true_and, Bool.and_true, Bool.or_eq_true, decide_eq_true_eq]
      exact hc

theorem inv_iff {s : State} : Inv s ↔
    Memory.wf s.buf = true ∧ s.code.toNat ≤ 6 ∧ s.cnt.toNat ≤ 8 ∧ (Idle s ∨ ∃ i q, Running i q s) := by
  simp only [Inv, invariant, Bool.and_eq_true, decide_eq_true_eq, sequencerOk_iff, and_assoc]

/-- The command a state that meets the invariant runs. -/
theorem Inv.running {s : State} {q : Sequencer} {i : Instr} (h : Inv s) (hs : s.seq = some q)
    (hd : decode q.curCmd = .ok i) : Running i q s := by
  obtain ⟨-, -, -, hi | ⟨j, r, hr⟩⟩ := inv_iff.mp h
  · cases hi.seq.symm.trans hs
  · obtain rfl : r = q := Option.some.inj (hr.seq.symm.trans hs)
    obtain rfl : j = i := Except.ok.inj (hr.decode.symm.trans hd)
    exact hr

/-- What one step of the running command can do, from a state that meets the invariant. -/
theorem Running.exec_spec {s : State} {q : Sequencer} {i : Instr} (h : Running i q s) (hc : s.cnt.toNat ≤ 8) :
    ExecSpec false i q s (exec i s) :=
  Machine.exec_spec (wellFormed_of_decode h.decode).1 h.seq hc h.pos

/-! ## Every step keeps it -/

theorem toNat_encStatus_le (st : Status) : (encStatus st).toNat ≤ 6 := Nat.le_of_lt_succ (toNat_encStatus_lt st)

theorem inv_finish {s : State} (st : Status) (rx : Option Byte) (h : Inv s) (hb : boundaryOk s = true) :
    Inv (finish st rx s) := by
  obtain ⟨hbuf, -, hcnt, -⟩ := inv_iff.mp h
  exact inv_iff.mpr ⟨hbuf, toNat_encStatus_le st, hcnt, .inl ⟨rfl, rfl, fun _ => hb⟩⟩

theorem Running.inv_goesOn {s t : State} {q r : Sequencer} {i : Instr} (h : Running i q s) (hs : Inv s)
    (hg : GoesOn false i q s t r) : Inv t := by
  obtain ⟨hbuf, hcode, -, -⟩ := inv_iff.mp hs
  have hcfg : t.cfg = true := by
    obtain hc | ⟨hc, hp⟩ := hg.cfg
    · exact hc
    · rw [hc]
      exact h.cfg.resolve_right hp
  exact inv_iff.mpr ⟨hg.buf hbuf, by rwa [hg.code], hg.cnt, .inr ⟨i, r, hg.seq, by rw [hg.busy, h.busy],
    by rw [hg.curCmd, h.decode], .inl hcfg, hg.ok⟩⟩

theorem Running.inv_exec {s t : State} {q : Sequencer} {i : Instr} (h : Running i q s) (hs : Inv s)
    (hx : exec i s = .next t) : Inv t := by
  obtain ⟨-, -, hcnt, -⟩ := inv_iff.mp hs
  have hspec := h.exec_spec hcnt
  rw [hx] at hspec
  obtain ⟨rfl, -⟩ | ⟨r, hg⟩ | ⟨-, hb, st, rx, rfl, -⟩ := hspec
  · exact hs
  · exact h.inv_goesOn hs hg
  · exact inv_finish st rx hs hb

/-- The invariant reads the drivers, the countdown, CFG, BUSY, CODE, BUF and the sequencer alone. -/
theorem inv_congr {s t : State} (hs : Inv s) (hd : driversOf t = driversOf s) (hcfg : t.cfg = s.cfg)
    (hbusy : t.busy = s.busy) (hcode : t.code = s.code) (hbuf : t.buf = s.buf) (hseq : t.seq = s.seq) : Inv t := by
  obtain ⟨hw, hc, hn, hrun⟩ := inv_iff.mp hs
  have hcnt : (driversOf t).cnt = (driversOf s).cnt := by rw [hd]
  refine inv_iff.mpr ⟨by rwa [hbuf], by rwa [hcode], by rwa [show t.cnt = s.cnt from hcnt], hrun.imp (fun hi => ?_) ?_⟩
  · refine ⟨hseq.trans hi.seq, hbusy.trans hi.busy, fun hc => ?_⟩
    have hb : boundaryOk (driversOf t) = boundaryOk (driversOf s) := congrArg boundaryOk hd
    exact hb.trans (hi.boundary (hcfg ▸ hc))
  · rintro ⟨i, q, hr⟩
    exact ⟨i, q, hseq.trans hr.seq, hbusy.trans hr.busy, hr.decode, by rw [hcfg]; exact hr.cfg,
      (posOk_congr hd).trans hr.pos⟩

/-- At a command boundary every command but INIT stands at its first position with the drivers of that position; INIT
does in every state. -/
theorem posOk_firstPos {low : Bool} {i : Instr} {s : State} {w : Word}
    (hb : i ≠ .init → boundaryOk s = true)
    (hlow : low = true → (∃ n, i = .transfer n) ∨ (∃ more, i = .readByte more) → s.sclPort = false) :
    posOk low i { curCmd := w, pos := firstPos i, loc := firstLocals i } s = true := by
  cases i with
  | init => rfl
  | transfer n =>
    obtain ⟨h1, h2, h3, h4⟩ := boundaryOk_iff.mp (hb (by simp))
    cases low <;> simp_all [posOk, firstPos, xferOk]
  | readByte more =>
    have hb' := hb (by simp)
    cases low <;> simp_all [posOk, firstPos, readOk]
  | start | stop | writeByte | writeTxn | readTxn =>
    obtain ⟨h1, h2, h3, h4⟩ := boundaryOk_iff.mp (hb (by simp))
    simp [posOk, firstPos, txnPosOk, startOk, stopOk, writeOk, boundaryOk, lineOk, attemptOk, firstLocals,
      Config.retryMax, h1, h2, h3, h4]

theorem inv_issue {s : State} {w : Word} {i : Instr} (hs : Inv s) (hb : s.busy = false) (hd : decode w = .ok i)
    (hc : s.cfg = true ∨ i = .init) : Inv (issue w i s) := by
  obtain ⟨hw, hcode, hn, hi | ⟨j, q, hr⟩⟩ := inv_iff.mp hs
  · refine inv_iff.mpr ⟨hw, hcode, hn, .inr ⟨i, _, rfl, rfl, hd, ?_, ?_⟩⟩
    · exact hc.imp id fun e => by rw [e]; rfl
    · exact posOk_firstPos (fun hne => hi.boundary (hc.resolve_right hne)) (by simp)
  · cases hr.busy.symm.trans hb

theorem inv_hostAccess {a : Access} {s t : State} (hs : Inv s) (h : hostAccess a s = .next t) : Inv t := by
  obtain ⟨v, d, rfl⟩ | rfl | ⟨w, i, hb, hd, hc, rfl⟩ | ⟨i, v, hb, rfl⟩ := hostAccess_next h
  · exact hs
  · exact hs
  · exact inv_issue hs hb hd hc
  · obtain ⟨hw, hcode, hn, hi | ⟨j, q, hr⟩⟩ := inv_iff.mp hs
    · exact inv_iff.mpr ⟨wf_bufInsert i v hw, hcode, hn, .inl ⟨hi.seq, hb, hi.boundary⟩⟩
    · cases hr.busy.symm.trans hb

theorem inv_envStep {s : State} (line : Line) (low : Bool) (hs : Inv s) : Inv (envStep line low s) := by
  cases line <;> refine inv_congr hs ?_ ?_ ?_ ?_ ?_ ?_ <;> simp [envStep, driversOf]

theorem inv_resetStep (s : State) : Inv (resetStep s) := by
  obtain ⟨wire, h⟩ := resetStep_eq s
  rw [h]
  rfl

/-- Settles O52, by evaluation. -/
theorem invariantHoldsAtReset : Obligations.InvariantHoldsAtReset := by
  unfold Obligations.InvariantHoldsAtReset
  rfl

theorem inv_step {s t : State} (hs : Inv s) (h : step s = .next t) : Inv t := by
  obtain ⟨s', he, hagent⟩ := step_next h
  have hs' : Inv s' := by rwa [he]
  obtain ⟨-, h⟩ | ⟨line, low, -, -, rfl⟩ | ⟨a, -, -, h⟩ | ⟨-, -, rfl⟩ := hagent
  · obtain ⟨-, rfl⟩ | ⟨q, i, -, hq, hd, hx⟩ := engineTurn_next h
    · exact hs'
    · exact (hs'.running hq hd).inv_exec hs' hx
  · exact inv_envStep line low hs'
  · exact inv_hostAccess hs' h
  · exact inv_resetStep _

/-- Settles O53, agent by agent: a command's step by `exec_spec`, a host access by what it can leave; the environment
touches nothing the invariant reads, and a reset makes it hold. -/
theorem everyStepKeepsTheInvariant : Obligations.EveryStepKeepsTheInvariant := by
  unfold Obligations.EveryStepKeepsTheInvariant
  exact fun _ _ => inv_step

/-! ## Runs from reset -/

theorem inv_run {k : Nat} {s t : State} (hs : Inv s) (h : Sys2Proof.core.run k s = .next t) : Inv t := by
  induction k generalizing s with
  | zero =>
    cases h
    exact hs
  | succ k ih =>
    cases hstep : step s with
    | next s' => exact ih (inv_step hs hstep) (by rwa [core_run_succ k hstep] at h)
    | fault f => exact absurd h (core_run_stopped k (by simp [hstep]))
    | refused r => exact absurd h (core_run_stopped k (by simp [hstep]))

/-- Settles O55: the invariant holds of every state of a run from reset. -/
theorem runsFromResetRespectTheBoundary : Obligations.RunsFromResetRespectTheBoundary := by
  unfold Obligations.RunsFromResetRespectTheBoundary
  intro agenda params k t h
  have hreset : Inv { State.reset with agenda := agenda, params := params } := rfl
  obtain ⟨-, hcode, -, hi | ⟨i, q, hr⟩⟩ := inv_iff.mp (inv_run hreset h)
  · refine ⟨fun _ hc => ?_, by simp [hi.busy, hi.seq], hcode⟩
    obtain ⟨h1, h2, h3, h4⟩ := boundaryOk_iff.mp (hi.boundary hc)
    exact ⟨h1, h2, h4, h3⟩
  · exact ⟨fun hb => by simp [hr.busy] at hb, by simp [hr.busy, hr.seq], hcode⟩

/-! ## What a command's step answers under the invariant -/

theorem stepsLeft_finish {i : Instr} {q : Sequencer} (s : State) (h : q.pos = .finish) : stepsLeft i q s = 1 := by
  obtain ⟨w, p, l⟩ := q
  obtain rfl : p = .finish := h
  cases i <;> rfl

theorem commandLeft_eq {s : State} {q : Sequencer} (i : Instr) (h : s.seq = some q) :
    commandLeft i s = stepsLeft i q s := by
  rw [commandLeft, h]

theorem commandLeft_finish (i : Instr) (st : Status) (rx : Option Byte) (s : State) :
    commandLeft i (finish st rx s) = 0 := rfl

/-- Settles O56: a step that goes on or finishes leaves fewer steps, and the only other one is the peer's hold. -/
theorem everyCommandStepMakesProgress : Obligations.EveryCommandStepMakesProgress := by
  unfold Obligations.EveryCommandStepMakesProgress
  intro i s t q hs hq hd hx
  obtain ⟨-, -, hcnt, -⟩ := inv_iff.mp hs
  have hspec := (hs.running hq hd).exec_spec hcnt
  rw [hx] at hspec
  rw [commandLeft_eq i hq]
  obtain ⟨rfl, -⟩ | ⟨r, hg⟩ | ⟨hp, -, st, rx, rfl, -⟩ := hspec
  · exact .inl rfl
  · rw [commandLeft_eq i hg.seq]
    exact .inr hg.less
  · rw [commandLeft_finish, stepsLeft_finish s hp]
    exact .inr Nat.one_pos

/-- Settles O49: `exec_spec` allows no other fault and no refusal. -/
theorem onlyTransferAndReadByteCanHang : Obligations.OnlyTransferAndReadByteCanHang := by
  unfold Obligations.OnlyTransferAndReadByteCanHang
  intro i s q hs hq hd
  obtain ⟨-, -, hcnt, -⟩ := inv_iff.mp hs
  have hspec := (hs.running hq hd).exec_spec hcnt
  cases hx : exec i s with
  | next t => trivial
  | fault f =>
    rw [hx] at hspec
    obtain ⟨hf, -, hwait, hpull, hi⟩ := hspec
    exact ⟨hf, hwait, hpull, hi⟩
  | refused r =>
    rw [hx] at hspec
    exact hspec

/-- A step that clears BUSY is the command's `finish`, with one of the command's statuses. -/
theorem Running.finish_of_busy {s t : State} {q : Sequencer} {i : Instr} (h : Running i q s) (hc : s.cnt.toNat ≤ 8)
    (hx : exec i s = .next t) (ht : t.busy = false) : ∃ st, t.code = encStatus st ∧ mayFinish i st = true := by
  have hspec := h.exec_spec hc
  rw [hx] at hspec
  obtain ⟨rfl, -⟩ | ⟨r, hg⟩ | ⟨-, -, st, rx, rfl, hst⟩ := hspec
  · cases h.busy.symm.trans ht
  · cases (hg.busy.trans h.busy).symm.trans ht
  · exact ⟨st, rfl, hst⟩

/-- Settles O34: the codes of the statuses `mayFinish` allows the command. -/
theorem commandsFinishWithTheirCodes : Obligations.CommandsFinishWithTheirCodes := by
  unfold Obligations.CommandsFinishWithTheirCodes
  intro i s t q hs hq hd hx ht
  obtain ⟨-, -, hcnt, -⟩ := inv_iff.mp hs
  obtain ⟨st, hcode, hst⟩ := (hs.running hq hd).finish_of_busy hcnt hx ht
  cases i with
  | writeTxn addr stop count | readTxn addr stop count =>
    cases stop <;> cases st <;> simp_all [mayFinish, mayFailStart, mayFailStop, mayNack, encStatus]
  | _ => cases st <;> simp_all [mayFinish, mayFailStart, mayFailStop, mayNack, encStatus]

end Sys2Proof.Machine

/-! SUPPORT. What a command's step leaves alone, from the writes its (µ) steps can make (`exec_next`), and which steps
set and clear the flags and the results (10_state.md R24 to R27, R33 to R37, R48). -/

namespace Sys2Proof.Machine

open Sys2Proof

/-! ## The fields a step leaves alone -/

theorem MicroEffect.sameSurroundings {q : Sequencer} {s u : State} (h : MicroEffect q s u) : sameSurroundings s u := by
  cases h <;> simp [Machine.sameSurroundings]

theorem MicroEffect.results {q : Sequencer} {s u : State} (h : MicroEffect q s u) :
    u.code = s.code ∧ u.busy = s.busy ∧ u.rxdata = s.rxdata := by
  cases h <;> simp

theorem MicroEffect.buf_eq {q : Sequencer} {s u : State} (h : MicroEffect q s u) (hp : q.pos ≠ .store) :
    u.buf = s.buf := by
  cases h with
  | store h => exact absurd h hp
  | _ => simp

/-- CFG and SCL_DIR are written at INIT's step alone. -/
theorem MicroEffect.cfg_sclDir {q : Sequencer} {s u : State} (h : MicroEffect q s u) (hp : q.pos ≠ .init) :
    u.cfg = s.cfg ∧ u.sclDir = s.sclDir := by
  cases h with
  | init h => exact absurd h hp
  | _ => simp

/-- LATCH is written within a Transfer alone. -/
theorem MicroEffect.latch_eq {q : Sequencer} {s u : State} (h : MicroEffect q s u) (hp : atByte q.pos = false) :
    u.latch = s.latch := by
  cases h with
  | sample h => simp [hp] at h
  | _ => simp

theorem exec_sameSurroundings {i : Instr} {s t : State} (h : exec i s = .next t) : sameSurroundings s t := by
  obtain ⟨q, -, -, rfl | ⟨-, st, rx, rfl, -⟩ | ⟨-, p, l, u, rfl, hu⟩⟩ := exec_next h
  · exact ⟨rfl, rfl, rfl, rfl, rfl, rfl, rfl⟩
  · exact ⟨rfl, rfl, rfl, rfl, rfl, rfl, rfl⟩
  · exact hu.sameSurroundings

/-- CODE, BUSY and RXDATA are written at `finish` alone (R48). -/
theorem exec_results {i : Instr} {s t : State} (h : exec i s = .next t) (hf : ¬AtPos .finish s) :
    t.code = s.code ∧ t.busy = s.busy ∧ t.rxdata = s.rxdata := by
  obtain ⟨q, hq, -, rfl | ⟨hp, -⟩ | ⟨-, p, l, u, rfl, hu⟩⟩ := exec_next h
  · exact ⟨rfl, rfl, rfl⟩
  · exact absurd ⟨q, hq, hp⟩ hf
  · exact hu.results

/-- TRANSFER and READ_BYTE are the commands with a byte result (R48). -/
theorem exec_rxdata {i : Instr} {s t : State} (h : exec i s = .next t)
    (hi : ¬((∃ n, i = .transfer n) ∨ ∃ more, i = .readByte more)) : t.rxdata = s.rxdata := by
  obtain ⟨q, -, -, rfl | ⟨-, st, rx, rfl, hrx⟩ | ⟨-, p, l, u, rfl, hu⟩⟩ := exec_next h
  · rfl
  · obtain rfl : rx = none := by
      by_contra hne
      exact hi (hrx hne)
    rfl
  · exact hu.results.2.2

/-- What the writes of the (µ) steps a command has bring about, and finishing or moving on does not undo, holds after
its step. -/
theorem exec_of_ownEffect {P : State → Prop} {i : Instr} {s t : State} (h : exec i s = .next t)
    (hP : ∀ q u, s.seq = some q → ownPos i q.pos = true → MicroEffect q s u → P u)
    (hfinish : ∀ st rx u, P u → P (finish st rx u)) (hgoTo : ∀ q p l u, P u → P (goTo q p l u)) : P t := by
  obtain ⟨q, hq, ho, rfl | ⟨-, st, rx, rfl, -⟩ | ⟨-, p, l, u, rfl, hu⟩⟩ := exec_next h
  · exact hP q _ hq ho .still
  · exact hfinish st rx s (hP q s hq ho .still)
  · exact hgoTo q p l u (hP q u hq ho hu)

/-- Only READ_TXN has a store step. -/
theorem exec_buf_eq {i : Instr} {s t : State} (h : exec i s = .next t) (hs : ¬AtPos .store s) : t.buf = s.buf :=
  exec_of_ownEffect (P := fun u => u.buf = s.buf) h (fun q _ hq _ hu => hu.buf_eq fun hp => hs ⟨q, hq, hp⟩)
    (fun _ _ _ hu => hu) fun _ _ _ _ hu => hu

theorem exec_bufRead {i : Instr} {s t : State} (h : exec i s = .next t) (hs : ¬AtPos .store s) (j : BitVec 8) :
    bufRead j t = bufRead j s := by
  obtain ⟨-, -, -, -, -, hepoch, -⟩ := exec_sameSurroundings h
  exact bufRead_congr (exec_buf_eq h hs) hepoch j

theorem not_atPos_of_ownPos {i : Instr} {s t : State} {p : Pos} (h : exec i s = .next t) (hp : ownPos i p = false) :
    ¬AtPos p s := by
  rintro ⟨q, hq, rfl⟩
  obtain ⟨q', hq', ho, -⟩ := exec_next h
  obtain rfl : q = q' := Option.some.inj (hq.symm.trans hq')
  simp [hp] at ho

theorem exec_cfg_sclDir {i : Instr} {s t : State} (h : exec i s = .next t) (hi : i ≠ .init) :
    t.cfg = s.cfg ∧ t.sclDir = s.sclDir :=
  exec_of_ownEffect (P := fun u => u.cfg = s.cfg ∧ u.sclDir = s.sclDir) h
    (fun q _ _ ho hu => hu.cfg_sclDir fun hp => by cases i <;> simp_all [ownPos])
    (fun _ _ _ hu => hu) fun _ _ _ _ hu => hu

/-! ## INIT, START and STOP -/

theorem atByte_of_signal {i : Instr} {p : Pos} (hi : i ∈ [Instr.init, .start, .stop]) (h : ownPos i p = true) :
    atByte p = false ∧ p ≠ .store := by
  fin_cases hi <;> cases p <;> simp_all [ownPos, atByte]

theorem atByte_of_atPreload {p : Pos} (h : atPreload p = true) : atByte p = true := by
  cases p <;> simp_all [atPreload, atByte]

theorem atByte_of_atDirIn {p : Pos} (h : atDirIn p = true) : atByte p = true := by
  cases p <;> simp_all [atDirIn, atByte]

/-- What a step of START or STOP leaves alone, and which flags stay set. -/
structure ConditionFrame (s t : State) : Prop where
  cfg : t.cfg = s.cfg
  sr : t.sr = s.sr
  cnt : t.cnt = s.cnt
  oif : t.oif = s.oif
  sclDir : t.sclDir = s.sclDir
  sdaDir : t.sdaDir = s.sdaDir
  sif : s.sif = true → t.sif = true
  pf : s.pf = true → ¬AtPos (.stop .verify) s → t.pf = true

/-- Away from INIT's step and the byte procedures a (µ) step writes the ports and, at STOP's last step, PF. -/
theorem MicroEffect.conditionFrame {q : Sequencer} {s u : State} (h : MicroEffect q s u) (hq : s.seq = some q)
    (hi : q.pos ≠ .init) (hb : atByte q.pos = false) : ConditionFrame s u := by
  cases h with
  | init hp => exact absurd hp hi
  | preload n hp => simp [atByte_of_atPreload hp] at hb
  | sdaIn hp => simp [atByte_of_atDirIn hp] at hb
  | toggle hp | sdaOut hp | loadSR _ hp | sample hp | shift hp => simp [hb] at hp
  | stopVerify hp => constructor <;> simp_all [AtPos]
  | still | store | sclPort | sdaPort => constructor <;> simp_all

theorem exec_conditionFrame {i : Instr} {s t : State} (h : exec i s = .next t) (hi : i ∈ [Instr.init, .start, .stop])
    (hne : i ≠ .init) : ConditionFrame s t :=
  exec_of_ownEffect h
    (fun q _ hq ho hu => hu.conditionFrame hq (fun hp => by cases i <;> simp_all [ownPos]) (atByte_of_signal hi ho).1)
    (fun _ _ _ ⟨h1, h2, h3, h4, h5, h6, h7, h8⟩ => ⟨h1, h2, h3, h4, h5, h6, h7, h8⟩)
    fun _ _ _ _ ⟨h1, h2, h3, h4, h5, h6, h7, h8⟩ => ⟨h1, h2, h3, h4, h5, h6, h7, h8⟩

/-- Settles O35, from the writes the (µ) steps of these commands can make. -/
theorem signalCommandsFrame : Obligations.SignalCommandsFrame := by
  unfold Obligations.SignalCommandsFrame
  intro i s t hi h
  refine ⟨?_, ?_, ?_, exec_sameSurroundings h, fun hf => ?_, fun hne => ?_⟩
  · exact exec_of_ownEffect (P := fun u => u.latch = s.latch) h
      (fun q _ _ ho hu => hu.latch_eq (atByte_of_signal hi ho).1) (fun _ _ _ hu => hu) fun _ _ _ _ hu => hu
  · exact exec_rxdata h (by rintro (⟨n, rfl⟩ | ⟨more, rfl⟩) <;> simp at hi)
  · exact exec_bufRead h (not_atPos_of_ownPos h (by fin_cases hi <;> rfl))
  · obtain ⟨hcode, hbusy, -⟩ := exec_results h hf
    exact ⟨hcode, hbusy⟩
  · obtain ⟨h1, h2, h3, h4, h5, h6, h7, h8⟩ := exec_conditionFrame h hi hne
    exact ⟨h1, h2, h3, h4, h5, h6, h7, h8⟩

/-! ## TRANSFER, READ_BYTE and WRITE_BYTE -/

/-- SDA_PORT is written by START, STOP and INIT alone. -/
theorem MicroEffect.sdaPort_eq {q : Sequencer} {s u : State} (h : MicroEffect q s u) (hc : atCondition q.pos = false)
    (hi : q.pos ≠ .init) : u.sdaPort = s.sdaPort := by
  cases h with
  | init hp => exact absurd hp hi
  | sdaPort _ hp => simp [hc] at hp
  | _ => simp

/-- SDA_DIR turns to input only at a switch to input. -/
theorem MicroEffect.sdaDir_out {q : Sequencer} {s u : State} (h : MicroEffect q s u) (hs : s.sdaDir = true) :
    u.sdaDir = true ∨ atDirIn q.pos = true := by
  cases h with
  | sdaIn hp => exact .inr hp
  | _ => exact .inl (by simp [hs])

/-- A byte command's positions but `finish` lie within its byte procedure or its Transfer. -/
theorem ownPos_byteCommand {i : Instr} {p : Pos}
    (hi : (∃ n, i = .transfer n) ∨ (∃ more, i = .readByte more) ∨ ∃ v, i = .writeByte v) (h : ownPos i p = true) :
    atCondition p = false ∧ p ≠ .init ∧ (atDirIn p = true → p = .readByte .dirIn ∨ p = .writeByte .dirIn) := by
  obtain ⟨n, rfl⟩ | ⟨more, rfl⟩ | ⟨v, rfl⟩ := hi <;> cases p <;> simp_all [ownPos, atCondition, atDirIn] <;> grind

/-- Settles O36, from the writes the (µ) steps of these commands can make. -/
theorem byteCommandsFrame : Obligations.ByteCommandsFrame := by
  unfold Obligations.ByteCommandsFrame
  intro i s t hi h
  have hne : i ≠ .init := by obtain ⟨n, rfl⟩ | ⟨more, rfl⟩ | ⟨v, rfl⟩ := hi <;> simp
  obtain ⟨hcfg, hdir⟩ := exec_cfg_sclDir h hne
  refine ⟨hcfg, hdir, ?_, ?_, exec_sameSurroundings h, exec_results h, ?_, fun hs => ?_⟩
  · exact exec_of_ownEffect (P := fun u => u.sdaPort = s.sdaPort) h
      (fun q _ _ ho hu => hu.sdaPort_eq (ownPos_byteCommand hi ho).1 (ownPos_byteCommand hi ho).2.1)
      (fun _ _ _ hu => hu) fun _ _ _ _ hu => hu
  · exact exec_bufRead h (not_atPos_of_ownPos h (by obtain ⟨n, rfl⟩ | ⟨more, rfl⟩ | ⟨v, rfl⟩ := hi <;> rfl))
  · rintro ⟨v, rfl⟩
    exact exec_rxdata h (by simp)
  · refine exec_of_ownEffect
      (P := fun u => u.sdaDir = true ∨ AtPos (.readByte .dirIn) s ∨ AtPos (.writeByte .dirIn) s) h
      (fun q _ hq ho hu => ?_) (fun _ _ _ hu => hu) fun _ _ _ _ hu => hu
    obtain ⟨-, -, hin⟩ := ownPos_byteCommand hi ho
    exact (hu.sdaDir_out hs).imp_right fun hp => (hin hp).imp (fun e => ⟨q, hq, e⟩) fun e => ⟨q, hq, e⟩

/-! ## The transactions -/

/-- READ_TXN's store step writes `b` at BUF[i] (R119). -/
theorem exec_readTxn_store {addr : BitVec 7} {stop : Bool} {count : BitVec 8} {s t : State} {q : Sequencer}
    (hs : s.seq = some q) (hp : q.pos = .store) (h : exec (.readTxn addr stop count) s = .next t) :
    ∃ p l, t = goTo q p l (bufWrite q.loc.i q.loc.b s) := by
  obtain ⟨w, p, l⟩ := q
  obtain rfl : p = .store := hp
  change execReadTxn addr stop count s = .next t at h
  unfold execReadTxn at h
  split at h
  · rw [withSeq_some _ hs] at h
    cases h
    rw [micro_bufWrite]
    exact txnNextByte_goTo ..
  · cases h

/-- Settles O37: every step but the store leaves BUF alone, and the store writes one byte. -/
theorem transactionsFrame : Obligations.TransactionsFrame := by
  unfold Obligations.TransactionsFrame
  intro i addr stop count s t q hi hs h
  have hne : i ≠ .init := by obtain rfl | rfl := hi <;> simp
  have hrx : t.rxdata = s.rxdata := exec_rxdata h (by obtain rfl | rfl := hi <;> simp)
  obtain ⟨hcfg, hdir⟩ := exec_cfg_sclDir h hne
  refine ⟨hcfg, hdir, hrx, exec_sameSurroundings h, fun hf => ?_, fun j => ?_⟩
  · obtain ⟨hcode, hbusy, -⟩ := exec_results h hf
    exact ⟨hcode, hbusy⟩
  · by_cases hp : q.pos = .store
    · obtain rfl | rfl := hi
      · exact absurd ⟨q, hs, hp⟩ (not_atPos_of_ownPos h rfl)
      · obtain ⟨p, l, rfl⟩ := exec_readTxn_store hs hp h
        have hread : bufRead j (goTo q p l (bufWrite q.loc.i q.loc.b s)) = _ := bufRead_bufWrite q.loc.i j q.loc.b s
        simpa [hp] using hread
    · rw [exec_bufRead h, if_neg (fun hc => hp hc.2.1)]
      rintro ⟨q', hq', hp'⟩
      obtain rfl : q = q' := Option.some.inj (hs.symm.trans hq')
      exact hp hp'

/-! ## Flags -/

/-- A condition flag that rises from `s` to `t` shows its condition (R33, R34). -/
structure ShowsRise (s t : State) : Prop where
  start : s.sif = false → t.sif = true → startSeen s t = true
  stop : s.pf = false → t.pf = true → stopSeen s t = true

theorem MicroEffect.showsRise {q : Sequencer} {s u : State} (h : MicroEffect q s u) : ShowsRise s u := by
  cases h <;> constructor <;> simp +contextual [startSeen, stopSeen]

theorem exec_showsRise {i : Instr} {s t : State} (h : exec i s = .next t) : ShowsRise s t :=
  exec_of_ownEffect h (fun _ _ _ _ hu => hu.showsRise) (fun _ _ _ hu => ⟨hu.start, hu.stop⟩)
    fun _ _ _ _ hu => ⟨hu.start, hu.stop⟩

theorem envStep_showsRise (line : Line) (low : Bool) (s : State) : ShowsRise s (envStep line low s) := by
  cases line <;> constructor <;> simp +contextual [envStep, startSeen, stopSeen]

/-- A host access moves no condition flag, and no field a finishing command writes but BUSY, which it only sets. -/
theorem hostAccess_flags {a : Access} {s t : State} (h : hostAccess a s = .next t) :
    t.sif = s.sif ∧ t.pf = s.pf ∧ t.oif = s.oif ∧ t.cfg = s.cfg ∧ t.code = s.code ∧ t.rxdata = s.rxdata ∧
      (s.busy = true → t.busy = true) := by
  obtain ⟨v, d, rfl⟩ | rfl | ⟨w, i, -, -, -, rfl⟩ | ⟨i, v, -, rfl⟩ := hostAccess_next h <;> simp

theorem step_showsRise {s t : State} (h : step s = .next t) : ShowsRise s t := by
  obtain ⟨s', rfl, ⟨-, h⟩ | ⟨line, low, -, -, rfl⟩ | ⟨a, -, -, h⟩ | ⟨-, -, rfl⟩⟩ := step_next h
  · obtain ⟨-, rfl⟩ | ⟨q, i, -, -, -, hx⟩ := engineTurn_next h
    · constructor <;> simp +contextual
    · exact ⟨(exec_showsRise hx).start, (exec_showsRise hx).stop⟩
  · have hrise := envStep_showsRise line low { s with agenda := s.agenda.tail }
    exact ⟨hrise.start, hrise.stop⟩
  · obtain ⟨hsif, hpf, -⟩ := hostAccess_flags h
    constructor <;> simp +contextual [hsif, hpf]
  · constructor <;> simp [resetStep, State.reset]

theorem startSeen_iff {s t : State} : startSeen s t = true ↔
    s.cfg = true ∧ sclLevel s = true ∧ sclLevel t = true ∧ sdaLevel s = true ∧ sdaLevel t = false := by
  simp [startSeen, and_assoc]

theorem stopSeen_iff {s t : State} : stopSeen s t = true ↔
    s.cfg = true ∧ sclLevel s = true ∧ sclLevel t = true ∧ sdaLevel s = false ∧ sdaLevel t = true := by
  simp [stopSeen, and_assoc]

/-- Settles O40: no (µ) step writes 1 to SIF or PF, so a rise is the detector's. -/
theorem onlyTheDetectorSetsConditionFlags : Obligations.OnlyTheDetectorSetsConditionFlags := by
  unfold Obligations.OnlyTheDetectorSetsConditionFlags
  intro s t h
  exact ⟨fun h0 h1 => startSeen_iff.mp ((step_showsRise h).start h0 h1),
    fun h0 h1 => stopSeen_iff.mp ((step_showsRise h).stop h0 h1)⟩

/-- From `s`, with the engine at position `p`, to `t` no flag falls but at its writers (R37), and CFG does not fall. -/
structure ClearedByWriters (p : Pos) (s t : State) : Prop where
  sif : s.sif = true → t.sif = false → p = .init ∨ atPreload p = true
  oif : s.oif = true → t.oif = false → p = .init ∨ atPreload p = true
  pf : s.pf = true → t.pf = false → p = .init ∨ atPreload p = true ∨ p = .stop .verify
  cfg : s.cfg = true → t.cfg = true

theorem MicroEffect.clearedByWriters {q : Sequencer} {s u : State} (h : MicroEffect q s u) :
    ClearedByWriters q.pos s u := by
  cases h with
  | init hp | preload _ hp | stopVerify hp => constructor <;> simp +contextual [hp]
  | _ => constructor <;> simp +contextual

theorem exec_clearedByWriters {i : Instr} {s t : State} (h : exec i s = .next t) : ClearedByWriters (posOf s) s t :=
  exec_of_ownEffect h (fun q _ hq _ hu => by simpa only [posOf, hq] using hu.clearedByWriters)
    (fun _ _ _ hu => ⟨hu.sif, hu.oif, hu.pf, hu.cfg⟩) fun _ _ _ _ hu => ⟨hu.sif, hu.oif, hu.pf, hu.cfg⟩

/-- A flag that is set stays set, and CFG does. -/
structure KeepsFlags (s t : State) : Prop where
  sif : s.sif = true → t.sif = true
  oif : s.oif = true → t.oif = true
  pf : s.pf = true → t.pf = true
  cfg : s.cfg = true → t.cfg = true

theorem envStep_keepsFlags (line : Line) (low : Bool) (s : State) : KeepsFlags s (envStep line low s) := by
  cases line <;> constructor <;> simp +contextual [envStep]

/-- A step that is no reset is one of the running command, or keeps every flag and the result fields. -/
theorem step_cases_flags {s t : State} (h : step s = .next t) (hr : resetsNext s = false) :
    (enginesTurn s = true ∧ ∃ i, exec i { s with agenda := s.agenda.tail } = .next t) ∨
      (KeepsFlags s t ∧ t.code = s.code ∧ t.rxdata = s.rxdata ∧ (s.busy = true → t.busy = true)) := by
  obtain ⟨s', rfl, ⟨ha, h⟩ | ⟨line, low, -, -, rfl⟩ | ⟨a, -, -, h⟩ | ⟨rest, ha, -⟩⟩ := step_next h
  · obtain ⟨-, rfl⟩ | ⟨q, i, hb, -, -, hx⟩ := engineTurn_next h
    · exact .inr ⟨⟨id, id, id, id⟩, rfl, rfl, id⟩
    · refine .inl ⟨?_, i, hx⟩
      obtain ha | ⟨rest, ha⟩ := ha <;> simpa [enginesTurn, ha] using hb
  · have hk := envStep_keepsFlags line low { s with agenda := s.agenda.tail }
    refine .inr ⟨⟨hk.sif, hk.oif, hk.pf, hk.cfg⟩, ?_⟩
    cases line <;> simp [envStep]
  · obtain ⟨hsif, hpf, hoif, hcfg, hcode, hrx, hb⟩ := hostAccess_flags h
    exact .inr ⟨⟨hsif.trans, hoif.trans, hpf.trans, hcfg.trans⟩, hcode, hrx, hb⟩
  · simp [resetsNext, ha] at hr

/-- Settles O41: only a command's step clears a flag, and only at the positions of the writers. -/
theorem flagsAreClearedOnlyByTheirWriters : Obligations.FlagsAreClearedOnlyByTheirWriters := by
  unfold Obligations.FlagsAreClearedOnlyByTheirWriters
  intro s t h hr
  obtain ⟨hturn, i, hx⟩ | ⟨hk, -⟩ := step_cases_flags h hr
  · have hc := exec_clearedByWriters hx
    exact ⟨fun h0 h1 => ⟨hturn, hc.sif h0 h1⟩, fun h0 h1 => ⟨hturn, hc.oif h0 h1⟩,
      fun h0 h1 => ⟨hturn, hc.pf h0 h1⟩, hc.cfg⟩
  · refine ⟨fun h0 h1 => ?_, fun h0 h1 => ?_, fun h0 h1 => ?_, hk.cfg⟩
    · simp [hk.sif h0] at h1
    · simp [hk.oif h0] at h1
    · simp [hk.pf h0] at h1

/-- A command's step that changes a result field or ends BUSY is its `finish`. -/
theorem exec_finishes {i : Instr} {s t : State} (h : exec i s = .next t)
    (hc : t.code ≠ s.code ∨ t.rxdata ≠ s.rxdata ∨ (s.busy = true ∧ t.busy = false)) :
    posOf s = .finish ∧ t.busy = false ∧ t.seq = none := by
  obtain ⟨q, hq, -, rfl | ⟨hp, st, rx, rfl, -⟩ | ⟨-, p, l, u, rfl, hu⟩⟩ := exec_next h
  · simp at hc
  · exact ⟨by simpa only [posOf, hq] using hp, rfl, rfl⟩
  · obtain ⟨hcode, hbusy, hrx⟩ := hu.results
    simp [hcode, hbusy, hrx] at hc

/-- Settles O42: every agent's step but a command's `finish` keeps CODE and RXDATA, and BUSY when it is set. -/
theorem resultsChangeOnlyAtFinish : Obligations.ResultsChangeOnlyAtFinish := by
  unfold Obligations.ResultsChangeOnlyAtFinish
  intro s t h hr hc
  obtain ⟨hturn, i, hx⟩ | ⟨-, hcode, hrx, hb⟩ := step_cases_flags h hr
  · have hfinish := exec_finishes hx hc
    exact ⟨hturn, hfinish⟩
  · obtain h1 | h1 | ⟨h1, h2⟩ := hc
    · exact absurd hcode h1
    · exact absurd hrx h1
    · simp [hb h1] at h2

end Sys2Proof.Machine

/-! SUPPORT. The host's side: what the registers hold right after reset, what each access returns or does (10_state.md
R45 to R52), the views of the flags and lines bit by bit, and which agent a step of the system runs (20_memory.md
R61). -/

namespace Sys2Proof.Machine

open Sys2Proof

/-- Settles O7: the fields are those of `State.reset`; the four views, evaluated. -/
theorem resetStateHasTheListedValues : Obligations.ResetStateHasTheListedValues := by
  unfold Obligations.ResetStateHasTheListedValues
  exact ⟨rfl, rfl, rfl, rfl, rfl, rfl, rfl, rfl, rfl, rfl, rfl, rfl, rfl, rfl, rfl, rfl, rfl, rfl, rfl⟩

/-! ## The views of status, flags and lines -/

theorem rxdataWord_eq (s : State) : rxdataWord s = s.rxdata.setWidth 32 := by
  simp [rxdataWord, BitVec.setWidth_eq_append]

/-- BUSY is bit 8 of STATUS, above the code (R47). -/
theorem statusWord_eq (s : State) : statusWord s = s.code.setWidth 32 + (if s.busy then 0x100 else 0) := by
  have hc : s.code.toNat < 2 ^ 8 := s.code.isLt
  have hor : 256 ||| s.code.toNat = 256 + s.code.toNat := (Nat.two_pow_add_eq_or_of_lt hc 1).symm
  apply BitVec.eq_of_toNat_eq
  simp only [statusWord, BitVec.toNat_append, BitVec.toNat_add, BitVec.toNat_setWidth]
  cases s.busy <;> simp <;> omega

theorem getLsbD_flagsWord (s : State) (k : Nat) :
    (flagsWord s).getLsbD k =
      if k < 1 then s.sif else if k < 2 then s.pf else if k < 3 then collision s else if k < 4 then s.oif
      else if k < 8 then s.cnt.getLsbD (k - 4) else if k < 9 then s.cfg else false := by
  simp only [flagsWord, BitVec.getLsbD_append, BitVec.getLsbD_ofBool, Nat.sub_sub]
  grind

theorem getLsbD_linesWord (s : State) (k : Nat) :
    (linesWord s).getLsbD k =
      if k < 1 then sclLevel s else if k < 2 then sdaLevel s else if k < 3 then s.sclDir else if k < 4 then s.sclPort
      else if k < 5 then s.sdaDir else if k < 6 then s.sdaPort else if k < 8 then false
      else if k < 16 then s.sr.getLsbD (k - 8) else false := by
  simp only [linesWord, BitVec.getLsbD_append, BitVec.getLsbD_ofBool, Nat.sub_sub]
  grind (splits := 20)

/-- Settles O44: each view is its fields side by side, so a bit or a field of it is one of them. -/
theorem flagAndLineViewsBitByBit : Obligations.FlagAndLineViewsBitByBit := by
  unfold Obligations.FlagAndLineViewsBitByBit
  intro s
  have hcnt : (flagsWord s).extractLsb' 4 4 = s.cnt := by
    ext k hk
    simp only [BitVec.getElem_extractLsb', getLsbD_flagsWord]
    grind
  have hflags : (flagsWord s).extractLsb' 9 23 = 0 := by
    ext k hk
    simp only [BitVec.getElem_extractLsb', getLsbD_flagsWord]
    grind
  have hgap : (linesWord s).extractLsb' 6 2 = 0 := by
    ext k hk
    simp only [BitVec.getElem_extractLsb', getLsbD_linesWord]
    grind
  have hsr : (linesWord s).extractLsb' 8 8 = s.sr := by
    ext k hk
    simp only [BitVec.getElem_extractLsb', getLsbD_linesWord]
    grind
  have hlines : (linesWord s).extractLsb' 16 16 = 0 := by
    ext k hk
    simp only [BitVec.getElem_extractLsb', getLsbD_linesWord]
    grind
  simp [-BitVec.getLsbD_eq_getElem, getLsbD_flagsWord, getLsbD_linesWord, hcnt, hflags, hgap, hsr, hlines]

/-! ## Accesses -/

/-- Settles O43: each offset names its register, a read of it returns its view, and a write to a read-only one is
ignored. -/
theorem hostReadsReturnTheRegisters : Obligations.HostReadsReturnTheRegisters := by
  unfold Obligations.HostReadsReturnTheRegisters
  intro s
  refine ⟨rfl, ?_, ?_, rfl, rfl, fun i => ?_, fun w off hoff => ?_⟩
  · rw [← statusWord_eq]
    rfl
  · rw [← rxdataWord_eq]
    rfl
  · split
    · exact hostAccess_buf_read_busy i ‹_›
    · exact hostAccess_buf_read_idle i (Bool.eq_false_iff.mpr ‹_›)
  · fin_cases hoff <;> rfl

theorem cmdWrite_accepted {s : State} {w : Word} {i : Instr} (hb : s.busy = false) (hd : decode w = .ok i)
    (hc : s.cfg = true ∨ i = .init) : cmdWrite w s = .next (issue w i s) := by
  simp only [cmdWrite, hb, hd, Bool.false_eq_true, if_false]
  obtain hc | rfl := hc
  · simp [hc]
  · simp

/-- Settles O45: a CMD write that is not refused is `issue`. -/
theorem commandWriteIssuesTheCommand : Obligations.CommandWriteIssuesTheCommand := by
  unfold Obligations.CommandWriteIssuesTheCommand
  intro s w i hb hd hc
  exact ⟨issue w i s, cmdWrite_accepted hb hd hc, ⟨rfl, w, rfl⟩, ⟨_, rfl, rfl⟩, rfl⟩

theorem hostAccess_buf_write {s : State} (i : BitVec 8) (w : Word) (hb : s.busy = false) :
    hostAccess (.write (0x400 + 4 * i.toNat) 4 w) s = .next (bufWrite i (w.extractLsb' 0 8) s) := by
  simp [hostAccess, hostReg_buf, hostWrite, hb]

/-- Settles O46: a BUF write while BUSY = 0 is `bufWrite`, and a read there returns the byte written. -/
theorem bufferWriteIsReadBack : Obligations.BufferWriteIsReadBack := by
  unfold Obligations.BufferWriteIsReadBack
  intro s i w hb
  refine ⟨_, hostAccess_buf_write i w hb, rfl, fun j => bufRead_bufWrite i j _ s, ?_⟩
  rw [hostAccess_buf_read_idle i (by exact hb), bufRead_bufWrite, if_pos rfl]

/-! ## The step -/

/-- Settles O50: with the engine's turn first, or the agenda empty, a step is `engineTurn`, which runs the command. -/
theorem stepRunsTheLatchedCommand : Obligations.StepRunsTheLatchedCommand := by
  unfold Obligations.StepRunsTheLatchedCommand
  intro s q i hturn hq hd
  obtain ⟨hb, ha⟩ : s.busy = true ∧ (s.agenda = [] ∨ ∃ rest, s.agenda = .engine :: rest) := by
    rw [enginesTurn, Bool.and_eq_true] at hturn
    refine ⟨hturn.1, ?_⟩
    have hfirst := hturn.2
    split at hfirst
    · exact .inl ‹_›
    · exact .inr ⟨_, ‹_›⟩
    · cases hfirst
  have hrun : ∀ u : State, u.busy = true → u.seq = some q → engineTurn u = exec i u := by
    intro u hbu hqu
    simp only [engineTurn, hbu, hqu, hd, if_true]
  obtain ha | ⟨rest, ha⟩ := ha
  · have hs : { s with agenda := s.agenda.tail } = s := by rw [ha, List.tail_nil, ← ha]
    rw [hs, step, nextStep, ha]
    exact hrun s hb hq
  · rw [step, nextStep, ha]
    exact hrun _ hb hq

/-- An environment step sets its input; beside it the detector's flags and the record of the lines can change. -/
theorem envStep_eq (line : Line) (low : Bool) (s : State) : ∃ sif pf wire, envStep line low s =
    { s with
      envSclLow := if line = .scl then low else s.envSclLow
      envSdaLow := if line = .sda then low else s.envSdaLow
      sif := sif, pf := pf, wire := wire } := by
  cases line <;> simp only [envStep, micro, commit, recordLines] <;> split <;> exact ⟨_, _, _, rfl⟩

/-- Settles O51: the four forms of an event. -/
theorem stepRunsTheNamedAgent : Obligations.StepRunsTheNamedAgent := by
  unfold Obligations.StepRunsTheNamedAgent
  intro s rest
  refine ⟨fun hb ha => ?_, fun hb ha => ?_, fun a ha => ?_, fun line low ha => ?_⟩
  · simp [step, nextStep, ha, engineTurn, hb]
  · simp [step, nextStep, ha, runEvent, engineTurn, hb]
  · simp [step, nextStep, ha, runEvent]
  · obtain ⟨sif, pf, wire, henv⟩ := envStep_eq line low { s with agenda := rest }
    have hstep : step s = .next (envStep line low { s with agenda := rest }) := by
      simp only [step, nextStep, ha, runEvent]
    exact ⟨_, hstep.trans (congrArg _ henv), rfl, rfl, rfl⟩

end Sys2Proof.Machine

/-! SUPPORT. Which procedure's steps each command takes at which of its positions (`Runs`), so that a fact about a
procedure's step is a fact about every command that calls it. -/

namespace Sys2Proof.Machine

open Sys2Proof

/-! ## The procedure a command runs -/

/-- At its positions `inj p` the command `i` takes the steps of the procedure `f`, and `k` says where it goes on when
the procedure returns. -/
def Runs {π ρ : Type} (i : Instr) (inj : π → Pos) (f : π → Locals → State → ProcStep π ρ)
    (k : Sequencer → ρ → Locals → State → State) : Prop :=
  ∀ (s : State) (q : Sequencer) (p : π), s.seq = some q → q.pos = inj p →
    exec i s = runStep s q inj (fun r l t => .next (k q r l t)) (f p q.loc s)

section Runs

variable {π ρ : Type} {i : Instr} {inj : π → Pos} {f : π → Locals → State → ProcStep π ρ}
  {k : Sequencer → ρ → Locals → State → State} {s t : State} {q : Sequencer} {p p' : π} {l : Locals} {r : ρ}

theorem Runs.exec_goto (h : Runs i inj f k) (hs : s.seq = some q) (hp : q.pos = inj p)
    (hf : f p q.loc s = .goto p' l t) : exec i s = .next (goTo q (inj p') l t) := by
  rw [h s q p hs hp, hf, runStep]

theorem Runs.exec_ret (h : Runs i inj f k) (hs : s.seq = some q) (hp : q.pos = inj p)
    (hf : f p q.loc s = .ret r l t) : exec i s = .next (k q r l t) := by
  rw [h s q p hs hp, hf, runStep]

theorem Runs.exec_held (h : Runs i inj f k) (hs : s.seq = some q) (hp : q.pos = inj p) (hf : f p q.loc s = .held) :
    exec i s = .next s := by
  rw [h s q p hs hp, hf, runStep]

theorem Runs.exec_hung (h : Runs i inj f k) (hs : s.seq = some q) (hp : q.pos = inj p) (hf : f p q.loc s = .hung) :
    exec i s = .fault .hangOwnClock := by
  rw [h s q p hs hp, hf, runStep]

/-- A command that runs a procedure runs the procedures that one calls. -/
theorem Runs.call {π' ρ' : Type} {emb : π' → π} {g : π' → Locals → State → ProcStep π' ρ'}
    {c : ρ' → Locals → State → ProcStep π ρ} {k' : Sequencer → ρ' → Locals → State → State} (h : Runs i inj f k)
    (hf : ∀ p l s, f (emb p) l s = callStep emb c (g p l s))
    (hc : ∀ s q r l t, runStep s q inj (fun r l t => .next (k q r l t)) (c r l t) = .next (k' q r l t)) :
    Runs i (fun p => inj (emb p)) g k' := by
  intro s q p hs hp
  rw [h s q (emb p) hs hp, hf]
  cases g p q.loc s with
  | ret r l t => exact hc s q r l t
  | goto | held | hung => rfl

end Runs

/-! ## The commands' procedures -/

theorem runs_start : Runs .start .start startStep fun q _ l t => goTo q .finish l t := by
  rintro s ⟨w, _, l⟩ p hs rfl
  exact withSeq_some _ hs

theorem runs_stop : Runs .stop .stop stopStep fun q _ l t => goTo q .finish l t := by
  rintro s ⟨w, _, l⟩ p hs rfl
  exact withSeq_some _ hs

theorem runs_transfer {n : BitVec 4} (hw : WellFormed (.transfer n)) :
    Runs (.transfer n) .transfer (xferStep n) fun q r l t => goTo q .finish { l with result := r } t := by
  rintro s ⟨w, _, l⟩ p hs rfl
  exact (if_pos hw).trans (withSeq_some _ hs)

theorem runs_readByte (more : Bool) :
    Runs (.readByte more) .readByte (readByteStep more) fun q b l t => goTo q .finish { l with b := b } t := by
  rintro s ⟨w, _, l⟩ p hs rfl
  exact withSeq_some _ hs

theorem runs_writeByte (v : Byte) :
    Runs (.writeByte v) .writeByte (writeByteStep v) fun q _ l t => goTo q .finish l t := by
  rintro s ⟨w, _, l⟩ p hs rfl
  exact withSeq_some _ hs

/-- The direction bit of a transaction (R82). -/
def isRead : Instr → Bool
  | .readTxn _ _ _ => true
  | _ => false

/-- Where a transaction's payload byte begins. -/
def payloadPos : Instr → Pos
  | .readTxn _ _ _ => .readByte .dirIn
  | _ => .writeByte .clockLow

section Txn

variable {i : Instr} {addr : BitVec 7} {stop : Bool} {count : BitVec 8}

theorem runs_txnStart (hi : IsTxn i addr stop count) (hw : WellFormed i) :
    Runs i .start startStep fun q st l t => txnAfterStart q stop st l t := by
  rintro s ⟨w, _, l⟩ p hs rfl
  obtain rfl | rfl := hi
  · exact withSeq_some _ hs
  · exact (if_pos hw).trans (withSeq_some _ hs)

theorem runs_txnStop (hi : IsTxn i addr stop count) (hw : WellFormed i) :
    Runs i .stop stopStep fun q st l t => goTo q .finish { l with status := st } t := by
  rintro s ⟨w, _, l⟩ p hs rfl
  obtain rfl | rfl := hi
  · exact withSeq_some _ hs
  · exact (if_pos hw).trans (withSeq_some _ hs)

/-- Where a transaction goes on after its address byte. -/
def afterAddress (i : Instr) (stop : Bool) (count : BitVec 8) (q : Sequencer) (st : Status) (l : Locals) (t : State) :
    State :=
  if st = .ok then
    if count = 0 then txnLeave q stop .ok { l with i := 0 } t else goTo q (payloadPos i) { l with i := 0 } t
  else txnLeave q stop st l t

theorem runs_txnAddress (hi : IsTxn i addr stop count) (hw : WellFormed i) :
    Runs i .addrByte (writeByteStep (addressByte addr (isRead i))) (afterAddress i stop count) := by
  rintro s ⟨w, _, l⟩ p hs rfl
  obtain rfl | rfl := hi
  · exact withSeq_some _ hs
  · exact (if_pos hw).trans (withSeq_some _ hs)

/-- Where WRITE_TXN goes on after a payload byte. -/
def afterPayload (stop : Bool) (count : BitVec 8) (q : Sequencer) (st : Status) (l : Locals) (t : State) : State :=
  if st = .ok then txnNextByte q stop count (.writeByte .clockLow) l t else txnLeave q stop st l t

theorem runs_writeTxn_payload (addr : BitVec 7) (stop : Bool) (count : BitVec 8) :
    Runs (.writeTxn addr stop count) .writeByte (fun p l s => writeByteStep (bufRead l.i s) p l s)
      (afterPayload stop count) := by
  rintro s ⟨w, _, l⟩ p hs rfl
  exact withSeq_some _ hs

theorem runs_readTxn_payload (hw : WellFormed (.readTxn addr stop count)) :
    Runs (.readTxn addr stop count) .readByte (fun p l => readByteStep (moreBytes l.i count) p l)
      fun q b l t => goTo q .store { l with b := b } t := by
  rintro s ⟨w, _, l⟩ p hs rfl
  exact (if_pos hw).trans (withSeq_some _ hs)

theorem exec_readTxn_at_store (hw : WellFormed (.readTxn addr stop count)) {s : State} {q : Sequencer}
    (hs : s.seq = some q) (hp : q.pos = .store) :
    exec (.readTxn addr stop count) s =
      .next (txnNextByte q stop count (.readByte .dirIn) q.loc (bufWrite q.loc.i q.loc.b s)) := by
  obtain ⟨w, _, l⟩ := q
  obtain rfl : _ = Pos.store := hp
  rw [← micro_bufWrite]
  exact (if_pos hw).trans (withSeq_some _ hs)

end Txn

/-! ## The Transfers within ReadByte and WriteByte -/

section Bytes

variable {i : Instr} {inj : ReadPos → Pos} {k : Sequencer → Byte → Locals → State → State}
  {more : Locals → Bool}

theorem Runs.readData (h : Runs i inj (fun p l => readByteStep (more l) p l) k) :
    Runs i (fun p => inj (.data p)) (xferStep 8) fun q r l t => goTo q (inj .dirOut) { l with b := r } t :=
  h.call (fun _ _ _ => rfl) fun _ _ _ _ _ => rfl

theorem Runs.readAck (h : Runs i inj (fun p l => readByteStep (more l) p l) k) :
    Runs i (fun p => inj (.ack p)) (xferStep 1) fun q _ l t => k q l.b l t :=
  h.call (fun _ _ _ => rfl) fun _ _ _ _ _ => rfl

variable {inj : WritePos → Pos} {k : Sequencer → Status → Locals → State → State} {v : Locals → State → Byte}

theorem Runs.writeData (h : Runs i inj (fun p l s => writeByteStep (v l s) p l s) k) :
    Runs i (fun p => inj (.data p)) (xferStep 8) fun q _ l t => goTo q (inj .dirIn) l t :=
  h.call (fun _ _ _ => rfl) fun _ _ _ _ _ => rfl

theorem Runs.writeAck (h : Runs i inj (fun p l s => writeByteStep (v l s) p l s) k) :
    Runs i (fun p => inj (.ack p)) (xferStep 1) fun q a l t => k q (ackStatus a) { l with s := ackStatus a } t :=
  h.call (fun _ _ _ => rfl) fun _ _ _ _ _ => rfl

end Bytes

/-! ## The bytes a transaction loads -/

/-- WriteByte's load step puts the byte in SR (R107). -/
theorem Runs.exec_load {i : Instr} {inj : WritePos → Pos} {k : Sequencer → Status → Locals → State → State}
    {v : Locals → State → Byte} (h : Runs i inj (fun p l s => writeByteStep (v l s) p l s) k) {s : State}
    {q : Sequencer} (hs : s.seq = some q) (hp : q.pos = inj .load) :
    ∃ t, exec i s = .next t ∧ t.sr = v q.loc s ∧ AtPos (inj (.data .preload)) t := by
  refine ⟨_, h.exec_goto hs hp rfl, ?_, ⟨_, rfl, rfl⟩⟩
  simp

/-- Settles O30: WRITE_TXN's payload byte is WriteByte's, with BUF[i] as its value. -/
theorem writePayloadIsTheBuffer : Obligations.WritePayloadIsTheBuffer := by
  unfold Obligations.WritePayloadIsTheBuffer
  intro addr stop count s q hs hp
  exact (runs_writeTxn_payload addr stop count).exec_load hs hp

theorem toNat_addressByte (addr : BitVec 7) (rw : Bool) :
    (addressByte addr rw).toNat = 2 * addr.toNat + rw.toNat := by
  have hlt : (BitVec.ofBool rw).toNat < 2 ^ 1 := (BitVec.ofBool rw).isLt
  rw [addressByte, BitVec.toNat_append, ← Nat.shiftLeft_add_eq_or_of_lt hlt, BitVec.toNat_ofBool, Nat.shiftLeft_eq]
  omega

/-- Settles O6: both transactions' address byte is WriteByte's, with ADDR and the direction bit as its value. -/
theorem transactionsSendTheAddressByte : Obligations.TransactionsSendTheAddressByte := by
  unfold Obligations.TransactionsSendTheAddressByte
  rintro addr stop count s ⟨q, hs, hp⟩
  constructor
  · obtain ⟨t, hx, hsr, hpos⟩ := (runs_txnAddress (.inl rfl) rfl : Runs (.writeTxn addr stop count) ..).exec_load hs hp
    exact ⟨t, hx, hpos, hsr, by rw [hsr]; exact toNat_addressByte addr false⟩
  · intro hw
    obtain ⟨t, hx, hsr, hpos⟩ := (runs_txnAddress (.inr rfl) hw).exec_load hs hp
    exact ⟨t, hx, hpos, hsr, by rw [hsr]; exact toNat_addressByte addr true⟩

/-! ## Held at a wait -/

theorem xferStep_held {n : BitVec 4} {l : Locals} {s : State} (h : waitSclHigh s = .held) :
    xferStep n .sample l s = .held := by
  simp only [xferStep, h]

theorem stopStep_held {l : Locals} {s : State} (h : waitSclHigh s = .held) : stopStep .waitHigh l s = .held := by
  simp only [stopStep, h]

/-- A WriteByte at one of its two waits. -/
theorem writeByteStep_held {v : Byte} {p : WritePos} {l : Locals} {s : State} (h : waitSclHigh s = .held)
    (hp : p = .data .sample ∨ p = .ack .sample) : writeByteStep v p l s = .held := by
  obtain rfl | rfl := hp <;> simp only [writeByteStep, xferStep_held h, callStep]

/-- A ReadByte at one of its two waits. -/
theorem readByteStep_held {more : Bool} {p : ReadPos} {l : Locals} {s : State} (h : waitSclHigh s = .held)
    (hp : p = .data .sample ∨ p = .ack .sample) : readByteStep more p l s = .held := by
  obtain rfl | rfl := hp <;> simp only [readByteStep, xferStep_held h, callStep]

/-- The waits, by the procedure they stand in. -/
theorem atWait_iff {p : Pos} : atWait p = true ↔
    p = .stop .waitHigh ∨ p = .transfer .sample ∨ (∃ x, p = .readByte x ∧ (x = .data .sample ∨ x = .ack .sample)) ∨
      (∃ x, p = .writeByte x ∧ (x = .data .sample ∨ x = .ack .sample)) ∨
      ∃ x, p = .addrByte x ∧ (x = .data .sample ∨ x = .ack .sample) := by
  unfold atWait
  split <;> simp_all
  grind

theorem ownPos_of_posOk {low : Bool} {i : Instr} {q : Sequencer} {s : State} (h : posOk low i q s = true) :
    ownPos i q.pos = true := by
  obtain ⟨w, p, l⟩ := q
  cases i <;> cases p <;> simp_all [posOk, txnPosOk, ownPos]

/-- A command held by the peer at one of its waits stays as it is (R137). -/
theorem exec_held {i : Instr} {s : State} {q : Sequencer} (hw : WellFormed i) (hs : s.seq = some q)
    (ho : ownPos i q.pos = true) (hwait : atWait q.pos = true) (hheld : waitSclHigh s = .held) :
    exec i s = .next s := by
  obtain hp | hp | ⟨x, hp, hx⟩ | ⟨x, hp, hx⟩ | ⟨x, hp, hx⟩ := atWait_iff.mp hwait
  · rw [hp] at ho
    cases i with
    | stop => exact runs_stop.exec_held hs hp (stopStep_held hheld)
    | writeTxn => exact (runs_txnStop (.inl rfl) hw).exec_held hs hp (stopStep_held hheld)
    | readTxn => exact (runs_txnStop (.inr rfl) hw).exec_held hs hp (stopStep_held hheld)
    | _ => simp [ownPos] at ho
  · rw [hp] at ho
    cases i with
    | transfer => exact (runs_transfer hw).exec_held hs hp (xferStep_held hheld)
    | _ => simp [ownPos] at ho
  · rw [hp] at ho
    cases i with
    | readByte => exact (runs_readByte _).exec_held hs hp (readByteStep_held hheld hx)
    | readTxn => exact (runs_readTxn_payload hw).exec_held hs hp (readByteStep_held hheld hx)
    | _ => simp [ownPos] at ho
  · rw [hp] at ho
    cases i with
    | writeByte => exact (runs_writeByte _).exec_held hs hp (writeByteStep_held hheld hx)
    | writeTxn => exact (runs_writeTxn_payload _ _ _).exec_held hs hp (writeByteStep_held hheld hx)
    | _ => simp [ownPos] at ho
  · rw [hp] at ho
    cases i with
    | writeTxn => exact (runs_txnAddress (.inl rfl) hw).exec_held hs hp (writeByteStep_held hheld hx)
    | readTxn => exact (runs_txnAddress (.inr rfl) hw).exec_held hs hp (writeByteStep_held hheld hx)
    | _ => simp [ownPos] at ho

/-- Settles O48: the wait is held, whichever procedure it stands in, and an empty agenda is the engine's turn. -/
theorem heldEngineDoesNotMove : Obligations.HeldEngineDoesNotMove := by
  unfold Obligations.HeldEngineDoesNotMove
  intro i s q hs hwait hpos hw henv hpull
  have hx : exec i s = .next s :=
    exec_held hw hs (ownPos_of_posOk hpos) hwait (waitSclHigh_eq_held.mpr ⟨hpull, henv⟩)
  refine ⟨hx, fun hb hd ha => ?_⟩
  simp [step, nextStep, ha, engineTurn, hb, hs, hd, hx]

end Sys2Proof.Machine

/-! SUPPORT. Runs of a command beside the bus: one relation (`Reach`) for the runs alone (`execSteps`), beside a peer
(`peerSteps`) and under a host that polls STATUS, in which the record of the lines and what the host last read are left
open, since no step reads them. -/

namespace Sys2Proof.Machine

open Sys2Proof

/-! ## States up to the record of the lines and the host's read data -/

/-- `s` with another record of the lines and other read data. -/
def blur (w : List Levels) (h : Word) (s : State) : State := { s with wire := w, hostData := h }

/-- Steps of the command `i`, before each of which the other agents do `before`. -/
def busSteps (before : State → State) (i : Instr) : Nat → State → Host.Outcome State Fault Refusal
  | 0, s => .next s
  | k + 1, s =>
    match exec i (before s) with
    | .next t => busSteps before i k t
    | .fault f => .fault f
    | .refused r => .refused r

/-- `k` steps of the command `i` lead from `s` to `t`, whatever the two open fields. -/
def Reach (before : State → State) (i : Instr) (k : Nat) (s t : State) : Prop :=
  ∀ w h, ∃ w' h', busSteps before i k (blur w h s) = .next (blur w' h' t)

/-- `s` with the peer's data input at `e`. -/
def withSda (e : Bool) (s : State) : State := { s with envSdaLow := e }

theorem withSda_self {e : Bool} {s : State} (h : s.envSdaLow = e) : withSda e s = s := by
  subst h
  rfl

/-- What the other agents do before a step at `s`: the peer brings its data input to `e`, and no flag changes. -/
def Brings (before : State → State) (e : Bool) (s : State) : Prop :=
  ∀ w h, ∃ w' h', before (blur w h s) = blur w' h' (withSda e s)

/-- One step of the command `i` leads from `s` to `t`. -/
def ExecTo (i : Instr) (s t : State) : Prop := ∀ w h, ∃ w' h', exec i (blur w h s) = .next (blur w' h' t)

/-- A procedure's step `F` goes on from `s` at `p` with the locals `l`, in the state `t`. -/
def Goes {π ρ : Type} (F : State → ProcStep π ρ) (s : State) (p : π) (l : Locals) (t : State) : Prop :=
  ∀ w h, ∃ w' h', F (blur w h s) = .goto p l (blur w' h' t)

/-- A procedure's step `F` returns `r` from `s` with the locals `l`, in the state `t`. -/
def Yields {π ρ : Type} (F : State → ProcStep π ρ) (s : State) (r : ρ) (l : Locals) (t : State) : Prop :=
  ∀ w h, ∃ w' h', F (blur w h s) = .ret r l (blur w' h' t)

section Reach

variable {before : State → State} {i : Instr} {j k : Nat} {s t u : State} {e : Bool}

theorem busSteps_add (s : State) : busSteps before i (j + k) s =
    match busSteps before i j s with
    | .next t => busSteps before i k t
    | .fault f => .fault f
    | .refused r => .refused r := by
  induction j generalizing s with
  | zero => rw [Nat.zero_add]; rfl
  | succ j ih =>
    rw [Nat.succ_add, busSteps, busSteps]
    cases exec i (before s) with
    | next t => exact ih t
    | fault | refused => rfl

theorem Reach.trans (h1 : Reach before i j s t) (h2 : Reach before i k t u) : Reach before i (j + k) s u := by
  intro w h
  obtain ⟨w1, h1', hs⟩ := h1 w h
  obtain ⟨w2, h2', ht⟩ := h2 w1 h1'
  exact ⟨w2, h2', by rw [busSteps_add, hs]; exact ht⟩

theorem Reach.to (h : Reach before i k s t) (he : t = u) : Reach before i k s u := he ▸ h

/-- One round: the other agents, then the command's step. -/
theorem Reach.step (hb : Brings before e s) (hx : ExecTo i (withSda e s) t) : Reach before i 1 s t := by
  intro w h
  obtain ⟨w1, h1, hs⟩ := hb w h
  obtain ⟨w2, h2, ht⟩ := hx w1 h1
  exact ⟨w2, h2, by rw [busSteps, hs, ht]; rfl⟩

/-- What a run reaches, in so many words. -/
theorem Reach.exists_next (h : Reach before i k s t) :
    ∃ w d, busSteps before i k s = .next { t with wire := w, hostData := d } := h s.wire s.hostData

end Reach

/-! ## Steps of a procedure -/

section Procedures

variable {π ρ : Type} {s t : State} {p : π} {l : Locals} {r : ρ}

/-- The writes `g` read neither open field. -/
def Blurs (g : State → State) (s : State) : Prop := ∀ w h, g (blur w h s) = blur w h (g s)

theorem exists_micro_blur {g : State → State} (hg : Blurs g s) (w : List Levels) (h : Word) :
    ∃ w', micro g (blur w h s) = blur w' h (detect s (g s)) := by
  rw [micro, hg w h, commit, recordLines]
  split
  · exact ⟨w, rfl⟩
  · exact ⟨_, rfl⟩

theorem goes_micro {g : State → State} (hg : Blurs g s) :
    Goes (fun u => (.goto p l (micro g u) : ProcStep π ρ)) s p l (detect s (g s)) := by
  intro w h
  obtain ⟨w', hw⟩ := exists_micro_blur hg w h
  exact ⟨w', h, congrArg (ProcStep.goto p l) hw⟩

/-- Between `s` and `t` the lines show no condition. -/
def Quiet (s t : State) : Prop := sdaLevel t = sdaLevel s ∨ sclLevel s = false ∨ sclLevel t = false

theorem Quiet.detect_eq (h : Quiet s t) : detect s t = t := by
  have hs : startSeen s t = false := by obtain h | h | h := h <;> simp [startSeen, h]
  have hp : stopSeen s t = false := by obtain h | h | h := h <;> cases hd : sdaLevel s <;> simp [stopSeen, h, hd]
  simp [detect, hs, hp]

theorem goes_quiet {g : State → State} (hg : Blurs g s) (hq : Quiet s (g s)) :
    Goes (fun u => (.goto p l (micro g u) : ProcStep π ρ)) s p l (g s) := by
  have h := goes_micro (π := π) (ρ := ρ) (p := p) (l := l) hg
  rwa [hq.detect_eq] at h

theorem goes_delay (n : Nat) : Goes (fun u => (.goto p l (micro (delay n) u) : ProcStep π ρ)) s p l s :=
  fun w h => ⟨w, h, congrArg (ProcStep.goto p l) (micro_delay n _)⟩

variable {i : Instr} {inj : π → Pos} {f : π → Locals → State → ProcStep π ρ}
  {k : Sequencer → ρ → Locals → State → State} {q : Sequencer} {p' : π} {pos : Pos} {l' : Locals}

theorem Runs.goes (h : Runs i inj f k) (hs : s.seq = some q) (hp : q.pos = inj p) (hf : Goes (f p q.loc) s p' l t) :
    ExecTo i s (goTo q (inj p') l t) := by
  intro w d
  obtain ⟨w', d', hf⟩ := hf w d
  exact ⟨w', d', h.exec_goto (s := blur w d s) hs hp hf⟩

/-- The procedure's return takes the command to `pos` with the locals `l'`. -/
def Returns (k : Sequencer → ρ → Locals → State → State) (q : Sequencer) (r : ρ) (l : Locals) (pos : Pos)
    (l' : Locals) : Prop :=
  ∀ p₀ l₀ u, k { q with pos := p₀, loc := l₀ } r l u = goTo q pos l' u

theorem Runs.yields (h : Runs i inj f k) (hs : s.seq = some q) (hp : q.pos = inj p)
    (hf : Yields (f p q.loc) s r l t) (hk : Returns k q r l pos l') : ExecTo i s (goTo q pos l' t) := by
  intro w d
  obtain ⟨w', d', hf⟩ := hf w d
  exact ⟨w', d', (h.exec_ret (s := blur w d s) hs hp hf).trans (congrArg _ (hk q.pos q.loc _))⟩

/-- While the sequencer stands in the procedure, with byte index `x`, the peer brings its data input to `b p c` at
position `p` and countdown `c`, unless that were to move the data line while the clock is high. -/
def Steady (before : State → State) (inj : π → Pos) (x : BitVec 8) (b : π → BitVec 4 → Bool) : Prop :=
  ∀ (u : State) (q : Sequencer) (p : π), u.seq = some q → q.pos = inj p → q.loc.i = x →
    (u.envSdaLow = b p u.cnt ∨ sclLevel u = false) → Brings before (b p u.cnt) u

theorem Steady.comp {before : State → State} {π' : Type} {x : BitVec 8} {b : π → BitVec 4 → Bool} {emb : π' → π}
    (h : Steady before inj x b) : Steady before (fun p => inj (emb p)) x fun p => b (emb p) :=
  fun u q p => h u q (emb p)

variable {before : State → State} {x : BitVec 8} {b : π → BitVec 4 → Bool}

/-- One round at position `p` of a procedure. -/
theorem Runs.advance (h : Runs i inj f k) (p : π) (hb : Steady before inj x b) (hs : s.seq = some q)
    (hp : q.pos = inj p) (hx : q.loc.i = x) (hq : s.envSdaLow = b p s.cnt ∨ sclLevel s = false)
    (hf : Goes (f p q.loc) (withSda (b p s.cnt) s) p' l t) : Reach before i 1 s (goTo q (inj p') l t) :=
  .step (hb s q p hs hp hx hq) (h.goes hs hp hf)

/-- The last round of a procedure. -/
theorem Runs.leave (h : Runs i inj f k) (p : π) (hb : Steady before inj x b) (hs : s.seq = some q)
    (hp : q.pos = inj p) (hx : q.loc.i = x) (hq : s.envSdaLow = b p s.cnt ∨ sclLevel s = false)
    (hf : Yields (f p q.loc) (withSda (b p s.cnt) s) r l t) (hk : Returns k q r l pos l') :
    Reach before i 1 s (goTo q pos l' t) :=
  .step (hb s q p hs hp hx hq) (h.yields hs hp hf hk)

end Procedures

/-- An environment step that does not move the data line while the clock is high sets no flag. -/
theorem envStep_sda_quiet {e : Bool} {s : State} (h : s.envSdaLow = e ∨ sclLevel s = false) :
    ∃ w, envStep .sda e s = { s with envSdaLow := e, wire := w } := by
  have hd : detect s { s with envSdaLow := e } = { s with envSdaLow := e } := by
    obtain rfl | h := h
    · exact Quiet.detect_eq (.inl rfl)
    · exact Quiet.detect_eq (.inr (.inl h))
  simp only [envStep, micro, commit, recordLines, hd]
  split
  · exact ⟨s.wire, rfl⟩
  · exact ⟨_, rfl⟩

/-- The other agents' steps before each of the command's: the host does `host`, a register read or nothing, and the peer
pulls the data line or lets it go as `pull` says. -/
def agents (host : State → State) (pull : State → Bool) (s : State) : State := envStep .sda (pull s) (host s)

/-- The host reads a register at most. -/
def Reads (host : State → State) : Prop := ∀ s, ∃ v, host s = { s with hostData := v }

theorem reads_id : Reads id := fun s => ⟨s.hostData, rfl⟩

theorem reads_status : Reads fun s => { s with hostData := statusWord s } := fun _ => ⟨_, rfl⟩

theorem brings_agents {host : State → State} {pull : State → Bool} {s : State} {e : Bool} (hhost : Reads host)
    (hpull : ∀ w h, pull (blur w h s) = e) (hq : s.envSdaLow = e ∨ sclLevel s = false) :
    Brings (agents host pull) e s := by
  intro w h
  obtain ⟨v, hv⟩ := hhost (blur w h s)
  obtain ⟨w', hw⟩ := envStep_sda_quiet (s := { blur w h s with hostData := v }) hq
  exact ⟨w', v, by rw [agents, hpull, hv, hw]; rfl⟩

/-- A peer that does not move its data input. -/
theorem steady_const {host : State → State} (hhost : Reads host) {π : Type} (inj : π → Pos) (x : BitVec 8) (e : Bool) :
    Steady (agents host fun _ => e) inj x fun _ _ => e :=
  fun _ _ _ _ _ _ hq => brings_agents hhost (fun _ _ => rfl) hq

theorem peerSteps_eq (pull : State → Bool) (i : Instr) (k : Nat) (s : State) :
    peerSteps pull i k s = busSteps (agents id pull) i k s := by
  induction k generalizing s with
  | zero => rfl
  | succ k ih =>
    rw [peerSteps, busSteps, agents, id]
    cases exec i (envStep .sda (pull s) s) with
    | next t => exact ih t
    | fault | refused => rfl

theorem envStep_sda_same (s : State) : envStep .sda s.envSdaLow s = s :=
  micro_of_levels (f := fun t => { t with envSdaLow := s.envSdaLow }) rfl

/-- A command alone is one beside a peer that does not move its data input. -/
theorem execSteps_eq (i : Instr) (k : Nat) {s : State} {e : Bool} (he : s.envSdaLow = e) :
    execSteps i k s = busSteps (agents id fun _ => e) i k s := by
  induction k generalizing s with
  | zero => rfl
  | succ k ih =>
    have hsame : agents id (fun _ => e) s = s := by rw [← he]; exact envStep_sda_same s
    rw [execSteps, busSteps, hsame]
    cases hx : exec i s with
    | next t =>
      obtain ⟨-, henv, -⟩ := exec_sameSurroundings hx
      exact ih (henv.trans he)
    | fault | refused => rfl

/-! ## Start() -/

section Start

variable {before : State → State} {i : Instr} {inj : StartPos → Pos} {k : Sequencer → Status → Locals → State → State}
  {s : State} {q : Sequencer} {x : BitVec 8} {e : Bool} {pos : Pos} {l' : Locals}

/-- SIF after Start(): a start condition was made where no other device pulled a line (R91, R92). -/
def sifAfterStart (s : State) : Bool := s.sif || (!s.envSclLow && !s.envSdaLow)

/-- The status of a Start() that passes its pending check (R91). -/
def startStatus (s : State) : Status :=
  if !sifAfterStart s && s.params.verifyStart then .missingStartCondition else .ok

theorem goes_check {l : Locals} (h : pendingCheck s = .ok) :
    Goes (startStep .check l) s .dataHigh { l with s := .ok } s := fun w d =>
  ⟨w, d, by
    have h' : pendingCheck (blur w d s) = .ok := h
    rw [startStep, if_pos h', micro_id]⟩

theorem yields_verifyStart {l : Locals} :
    Yields (startStep .verify l) s (verifyStartStatus s) { l with s := verifyStartStatus s } s := fun w d =>
  ⟨w, d, by rw [startStep, micro_id]; rfl⟩

theorem Runs.start (h : Runs i inj startStep k) (hb : Steady before inj x fun _ _ => e) (hs : s.seq = some q)
    (hp : q.pos = inj .check) (hx : q.loc.i = x) (he : s.envSdaLow = e) (hbd : AtBoundary s)
    (hok : pendingCheck s = .ok) (hk : Returns k q (startStatus s) { q.loc with s := startStatus s } pos l') :
    Reach before i 9 s (goTo q pos l' { s with sclPort := false, sif := sifAfterStart s }) := by
  obtain ⟨hcfg, hbd⟩ := hbd
  obtain ⟨hcd, hdd, hsr, hdp⟩ := boundaryOk_iff.mp hbd
  have h1 := h.advance .check hb hs hp hx (.inl he) (goes_check (by rw [withSda_self he]; exact hok))
  have h2 := h1.trans (h.advance .dataHigh hb rfl rfl hx (.inl rfl)
    (goes_quiet (fun _ _ => rfl) (.inl (by simp [sdaLevel, sdaPulled, withSda, hdp]))))
  have h3 := h2.trans (h.advance .clockHigh hb rfl rfl hx (.inl rfl) (goes_quiet (fun _ _ => rfl) (.inl rfl)))
  have h4 := h3.trans (h.advance .setup hb rfl rfl hx (.inl rfl) (goes_delay _))
  have h5 := h4.trans (h.advance .dataLow hb rfl rfl hx (.inl rfl) (goes_micro fun _ _ => rfl))
  have h6 := h5.trans (h.advance .hold hb rfl rfl hx (.inl rfl) (goes_delay _))
  have h7 := h6.trans (h.advance .clockLow hb rfl rfl hx (.inl rfl) (goes_quiet (fun _ _ => rfl) (.inl rfl)))
  have h8 := h7.trans (h.advance .dataRelease hb rfl rfl hx (.inl rfl)
    (goes_quiet (fun _ _ => rfl) (.inr (.inl (by simp [sclLevel, sclPulled, withSda, hcd])))))
  have hstate : Reach before i 8 s (goTo q (inj .verify) { q.loc with s := .ok }
      { s with sclPort := false, sif := sifAfterStart s }) := h8.to <| by
    simp [goTo, setSdaPort, setSclPort, withSda, detect, startSeen, stopSeen, sclLevel, sdaLevel, sclPulled, sdaPulled,
      sifAfterStart, he, hcfg, hcd, hdd, hsr, hdp]
  have h9 := hstate.trans (h.leave .verify hb rfl rfl hx (.inl he) yields_verifyStart hk)
  rw [withSda_self (by exact he)] at h9
  exact h9

end Start

/-! ## Stop() -/

section Stop

variable {before : State → State} {i : Instr} {inj : StopPos → Pos} {k : Sequencer → Status → Locals → State → State}
  {s : State} {q : Sequencer} {x : BitVec 8} {e : Bool} {pos : Pos} {l' : Locals}

/-- Stop() up to its wait: entered with the clock released it makes a start condition where no other device pulls a line
(R94 (c)). -/
theorem Runs.stop_toWait (h : Runs i inj stopStep k) (hb : Steady before inj x fun _ _ => e) (hs : s.seq = some q)
    (hp : q.pos = inj .dataLow) (hx : q.loc.i = x) (hq : s.envSdaLow = e ∨ sclLevel s = false) (hbd : AtBoundary s) :
    Reach before i 2 s (goTo q (inj .waitHigh) q.loc
      { s with sdaPort := false, sclPort := true, envSdaLow := e,
               sif := s.sif || (s.sclPort && !s.envSclLow && !e) }) := by
  obtain ⟨hcfg, hbd⟩ := hbd
  obtain ⟨hcd, hdd, hsr, hdp⟩ := boundaryOk_iff.mp hbd
  have h1 := h.advance .dataLow hb hs hp hx hq (goes_micro fun _ _ => rfl)
  have h2 := h1.trans (h.advance .clockRelease hb rfl rfl hx (.inl rfl) (goes_quiet (fun _ _ => rfl) (.inl rfl)))
  exact h2.to <| by
    simp [goTo, setSdaPort, setSclPort, withSda, detect, startSeen, stopSeen, sclLevel, sdaLevel, sclPulled, sdaPulled,
      hcfg, hcd, hdd, hsr, hdp]

theorem goes_waitHigh {l : Locals} (h : sclLevel s = true) : Goes (stopStep .waitHigh l) s .hold l s := fun w d =>
  ⟨w, d, by
    have h' : waitSclHigh (blur w d s) = .ready := waitSclHigh_eq_ready.mpr h
    simp only [stopStep, h', micro_id]⟩

theorem yields_verifyStop {l : Locals} :
    Yields (stopStep .verify l) s (verifyStopStatus s) { l with s := verifyStopStatus s } (clearStopFlag s) :=
  fun w d => ⟨w, d, by rw [stopStep, micro_id]; rfl⟩

/-- The status of a Stop() that reaches its end with the peer's data input at `e` (R93). -/
def stopStatus (e : Bool) (s : State) : Status :=
  if !(s.pf || !e) && s.params.verifyStop then .missingStopCondition else .ok

/-- Stop() from its wait on, the clock not held. -/
theorem Runs.stop_fromWait (h : Runs i inj stopStep k) (hb : Steady before inj x fun _ _ => e) (hs : s.seq = some q)
    (hp : q.pos = inj .waitHigh) (hx : q.loc.i = x) (he : s.envSdaLow = e) (henv : s.envSclLow = false)
    (hcfg : s.cfg = true) (hok : stopOk .waitHigh s = true)
    (hk : Returns k q (stopStatus e s) { q.loc with s := stopStatus e s } pos l') :
    Reach before i 5 s (goTo q pos l' { s with sdaPort := true, pf := false }) := by
  simp only [stopOk, lineOk, Bool.and_eq_true, Bool.not_eq_true', decide_eq_true_eq] at hok
  obtain ⟨⟨⟨hcd, hdd⟩, hsr⟩, hdp, hcp⟩ := hok
  have hclk : sclLevel (withSda e s) = true := by simp [sclLevel, sclPulled, withSda, hcd, hcp, henv]
  have h1 := h.advance .waitHigh hb hs hp hx (.inl he) (goes_waitHigh hclk)
  have h2 := h1.trans (h.advance .hold hb rfl rfl hx (.inl rfl) (goes_delay _))
  have h3 := h2.trans (h.advance .dataRelease hb rfl rfl hx (.inl rfl) (goes_micro fun _ _ => rfl))
  have h4 := h3.trans (h.advance .setup hb rfl rfl hx (.inl rfl) (goes_delay _))
  have hstate : Reach before i 4 s (goTo q (inj .verify) q.loc { s with sdaPort := true, pf := s.pf || !e }) :=
    h4.to <| by
      simp [goTo, setSdaPort, withSda, detect, startSeen, stopSeen, sclLevel, sdaLevel, sclPulled, sdaPulled, he, hcfg,
        hcd, hdd, hsr, hdp, hcp, henv]
  have h5 := hstate.trans (h.leave .verify hb rfl rfl hx (.inl he) yields_verifyStop hk)
  rw [withSda_self (by exact he)] at h5
  exact h5

end Stop

/-! ## Transfer(n) -/

section Transfer

variable {before : State → State} {i : Instr} {inj : XferPos → Pos} {n : BitVec 4}
  {k : Sequencer → Byte → Locals → State → State} {s : State} {q : Sequencer} {x : BitVec 8} {b : BitVec 4 → Bool}
  {pos : Pos} {l' : Locals}

/-- A clock the engine drives low is low. -/
theorem sclLevel_driven (hdir : s.sclDir = true) (hport : s.sclPort = false) : sclLevel s = false := by
  simp [sclLevel, sclPulled, hdir, hport]

theorem goes_sample {l : Locals} (h : sclLevel s = true) :
    Goes (xferStep n .sample l) s .hold l { s with latch := sdaLevel s } := fun w d =>
  ⟨w, d, by
    have h' : waitSclHigh (blur w d s) = .ready := waitSclHigh_eq_ready.mpr h
    simp only [xferStep, h', micro_sample]
    rfl⟩

theorem goes_shift {l : Locals} (hdir : s.sclDir = true) (hport : s.sclPort = false) :
    Goes (xferStep n .shift l) s (if s.oif || decide (s.cnt - 1 = 0) then .capture else .setup) l (shiftAndCount s) :=
  fun w d => by
  obtain ⟨w', hw⟩ := exists_micro_blur (s := s) (g := shiftAndCount) (fun _ _ => rfl) w d
  rw [Quiet.detect_eq (.inr (.inl (sclLevel_driven hdir hport)))] at hw
  exact ⟨w', d, by rw [xferStep, hw]; rfl⟩

/-- One clocked bit (R96, R97): the data level is shifted in, and the countdown falls. -/
theorem Runs.clockedBit (h : Runs i inj (xferStep n) k) (hb : Steady before inj x fun _ => b) (hs : s.seq = some q)
    (hp : q.pos = inj .setup) (hx : q.loc.i = x) (hdir : s.sclDir = true) (hport : s.sclPort = false)
    (henv : s.envSclLow = false) :
    Reach before i 6 s (goTo q (inj (if s.oif || decide (s.cnt - 1 = 0) then .capture else .setup)) q.loc
      { s with envSdaLow := b s.cnt, latch := sdaLevel (withSda (b s.cnt) s),
               sr := shiftIn s.sr (sdaLevel (withSda (b s.cnt) s)), cnt := s.cnt - 1,
               oif := s.oif || decide (s.cnt - 1 = 0) }) := by
  have h1 := h.advance .setup hb hs hp hx (.inr (sclLevel_driven hdir hport)) (goes_delay _)
  have h2 := h1.trans (h.advance .toggle hb rfl rfl hx (.inl rfl) (goes_quiet (fun _ _ => rfl) (.inl rfl)))
  have hhigh : Reach before i 2 s (goTo q (inj .sample) q.loc { s with envSdaLow := b s.cnt, sclPort := true }) :=
    h2.to <| by simp [goTo, toggleScl, withSda, hport]
  have h3 := hhigh.trans (h.advance .sample hb rfl rfl hx (.inl rfl) (goes_sample (by
    simp [sclLevel, sclPulled, withSda, henv])))
  have h4 := h3.trans (h.advance .hold hb rfl rfl hx (.inl rfl) (goes_delay _))
  have h5 := h4.trans (h.advance .toggleBack hb rfl rfl hx (.inl rfl) (goes_quiet (fun _ _ => rfl) (.inl rfl)))
  have hlow : Reach before i 5 s (goTo q (inj .shift) q.loc
      { s with envSdaLow := b s.cnt, latch := sdaLevel (withSda (b s.cnt) s) }) :=
    h5.to <| by simp [goTo, toggleScl, withSda, hport, sdaLevel, sdaPulled]
  have h6 := hlow.trans (h.advance .shift hb rfl rfl hx (.inl rfl) (goes_shift hdir hport))
  exact h6

/-- The data level at a clocked bit, the engine's SDA_PORT released: low when SR[7] is driven low or the peer pulls. -/
def lineBit (drives : Bool) (sr : Byte) (low : Bool) : Bool := !((drives && !sr.getLsbD 7) || low)

theorem sdaLevel_withSda (e : Bool) (hport : s.sdaPort = true) :
    sdaLevel (withSda e s) = lineBit s.sdaDir s.sr e := by
  simp [sdaLevel, sdaPulled, withSda, lineBit, hport]

/-- SR after `c` clocked bits, the countdown at `c` before the first: at countdown `j` the peer's data input is
`b j`. -/
def srAfter (drives : Bool) (b : BitVec 4 → Bool) : Nat → Byte → Byte
  | 0, sr => sr
  | c + 1, sr => srAfter drives b c (shiftIn sr (lineBit drives sr (b (BitVec.ofNat 4 (c + 1)))))

theorem ofNat_succ_sub_one (c : Nat) : BitVec.ofNat 4 (c + 1) - 1 = BitVec.ofNat 4 c := by
  rw [BitVec.ofNat_add]
  exact BitVec.add_sub_cancel _ _

theorem ofNat_eq_zero_iff {c : Nat} (hc : c < 15) : BitVec.ofNat 4 c = 0 ↔ c = 0 := by
  rw [← BitVec.toNat_inj, BitVec.toNat_ofNat, Nat.mod_eq_of_lt (by omega)]
  rfl

/-- A clocked bit with `c` more to come. -/
theorem Runs.clockedBit_countdown (h : Runs i inj (xferStep n) k) (hb : Steady before inj x fun _ => b) {c : Nat}
    (hc : c < 15) (hs : s.seq = some q) (hp : q.pos = inj .setup) (hx : q.loc.i = x) (hdir : s.sclDir = true)
    (hport : s.sclPort = false) (henv : s.envSclLow = false) (hdp : s.sdaPort = true)
    (hcnt : s.cnt = BitVec.ofNat 4 (c + 1)) (hoif : s.oif = false) :
    Reach before i 6 s (goTo q (inj (if c = 0 then .capture else .setup)) q.loc
      { s with envSdaLow := b (BitVec.ofNat 4 (c + 1)),
               latch := lineBit s.sdaDir s.sr (b (BitVec.ofNat 4 (c + 1))),
               sr := shiftIn s.sr (lineBit s.sdaDir s.sr (b (BitVec.ofNat 4 (c + 1)))),
               cnt := BitVec.ofNat 4 c, oif := decide (c = 0) }) := by
  have hbit := h.clockedBit hb hs hp hx hdir hport henv
  simpa only [sdaLevel_withSda _ hdp, hcnt, ofNat_succ_sub_one, hoif, Bool.false_or, ofNat_eq_zero_iff hc,
    decide_eq_true_eq] using hbit

/-- The bit loop of Transfer(n) with `c + 1` bits to go (R96). -/
theorem Runs.clockedBits (h : Runs i inj (xferStep n) k) (hb : Steady before inj x fun _ => b) {c : Nat} (hc : c < 15)
    (hs : s.seq = some q) (hp : q.pos = inj .setup) (hx : q.loc.i = x) (hdir : s.sclDir = true)
    (hport : s.sclPort = false) (henv : s.envSclLow = false) (hdp : s.sdaPort = true)
    (hcnt : s.cnt = BitVec.ofNat 4 (c + 1)) (hoif : s.oif = false) :
    ∃ v, Reach before i (6 * (c + 1)) s (goTo q (inj .capture) q.loc
      { s with envSdaLow := b 1, latch := v, sr := srAfter s.sdaDir b (c + 1) s.sr, cnt := 0, oif := true }) := by
  induction c generalizing s q with
  | zero => exact ⟨_, h.clockedBit_countdown hb hc hs hp hx hdir hport henv hdp hcnt hoif⟩
  | succ c ih =>
    have hbit := h.clockedBit_countdown hb hc hs hp hx hdir hport henv hdp hcnt hoif
    obtain ⟨v, hrest⟩ := ih (s := goTo q (inj .setup) q.loc
      { s with envSdaLow := b (BitVec.ofNat 4 (c + 1 + 1)),
               latch := lineBit s.sdaDir s.sr (b (BitVec.ofNat 4 (c + 1 + 1))),
               sr := shiftIn s.sr (lineBit s.sdaDir s.sr (b (BitVec.ofNat 4 (c + 1 + 1)))),
               cnt := BitVec.ofNat 4 (c + 1), oif := false })
      (by omega) rfl rfl hx hdir hport henv hdp rfl rfl
    have hall := hbit.trans hrest
    rw [show 6 + 6 * (c + 1) = 6 * (c + 1 + 1) by omega] at hall
    exact ⟨v, hall⟩

theorem goes_preload {l : Locals} : Goes (xferStep n .preload l) s .setup l (preloadFlags n s) := fun w d =>
  ⟨w, d, by rw [xferStep, micro_id]; rfl⟩

theorem goes_capture {l : Locals} (hdir : s.sclDir = true) (hport : s.sclPort = false) :
    Goes (xferStep n .capture l) s .dirOut { l with result := s.sr } (loadSR 0xFF s) := by
  intro w d
  obtain ⟨w', hw⟩ := exists_micro_blur (s := s) (g := loadSR 0xFF) (fun _ _ => rfl) w d
  rw [Quiet.detect_eq (.inr (.inl (sclLevel_driven hdir hport)))] at hw
  exact ⟨w', d, by rw [xferStep, hw]; rfl⟩

theorem yields_dirOut {l : Locals} (hdir : s.sclDir = true) (hport : s.sclPort = false) :
    Yields (xferStep n .dirOut l) s l.result l (setSdaDir true s) := by
  intro w d
  obtain ⟨w', hw⟩ := exists_micro_blur (s := s) (g := setSdaDir true) (fun _ _ => rfl) w d
  rw [Quiet.detect_eq (.inr (.inl (sclLevel_driven hdir hport)))] at hw
  exact ⟨w', d, by rw [xferStep, hw]⟩

/-- Transfer(n) up to the capture of its result (R96): the `n` samples are shifted into SR. -/
theorem Runs.transfer_toCapture (h : Runs i inj (xferStep n) k) (hb : Steady before inj x fun _ => b)
    (hn : 1 ≤ n.toNat) (h8 : n.toNat ≤ 8) (hs : s.seq = some q) (hp : q.pos = inj .preload) (hx : q.loc.i = x)
    (hdir : s.sclDir = true) (hport : s.sclPort = false) (henv : s.envSclLow = false) (hdp : s.sdaPort = true) :
    ∃ v, Reach before i (1 + 6 * n.toNat + 1) s (goTo q (inj .dirOut)
      { q.loc with result := srAfter s.sdaDir b n.toNat s.sr }
      { s with envSdaLow := b 0, latch := v, sr := 0xFF, cnt := 0, oif := true, sif := false, pf := false }) := by
  obtain ⟨c, hc⟩ : ∃ c, n.toNat = c + 1 := ⟨n.toNat - 1, by omega⟩
  have hcnt : n = BitVec.ofNat 4 (c + 1) := by rw [← hc, BitVec.ofNat_toNat, BitVec.setWidth_eq]
  have hlow := sclLevel_driven hdir hport
  have h1 := h.advance .preload hb hs hp hx (.inr hlow) goes_preload
  obtain ⟨v, h2⟩ := h.clockedBits hb (c := c) (by omega) (s := goTo q (inj .setup) q.loc
    (preloadFlags n (withSda (b s.cnt) s))) rfl rfl hx hdir hport henv hdp hcnt rfl
  have h3 := (h1.trans h2).trans (h.advance .capture hb rfl rfl hx (.inr hlow) (goes_capture hdir hport))
  rw [hc]
  exact ⟨v, h3⟩

/-- Transfer(n), issued with the clock driven low and not held (R96, R97). -/
theorem Runs.transfer (h : Runs i inj (xferStep n) k) (hb : Steady before inj x fun _ => b)
    (hn : 1 ≤ n.toNat) (h8 : n.toNat ≤ 8) (hs : s.seq = some q) (hp : q.pos = inj .preload) (hx : q.loc.i = x)
    (hdir : s.sclDir = true) (hport : s.sclPort = false) (henv : s.envSclLow = false) (hdp : s.sdaPort = true)
    {r : Byte} (hr : srAfter s.sdaDir b n.toNat s.sr = r) (hk : Returns k q r { q.loc with result := r } pos l') :
    ∃ v, Reach before i (1 + 6 * n.toNat + 2) s (goTo q pos l'
      { s with envSdaLow := b 0, latch := v, sr := 0xFF, cnt := 0, oif := true, sif := false, pf := false,
               sdaDir := true }) := by
  obtain ⟨v, h1⟩ := h.transfer_toCapture hb hn h8 hs hp hx hdir hport henv hdp
  have hlow := sclLevel_driven hdir hport
  rw [hr] at h1
  exact ⟨v, h1.trans (h.leave .dirOut hb rfl rfl hx (.inr hlow) (yields_dirOut hdir hport) hk)⟩

end Transfer

/-! ## The byte procedures -/

section WriteByte

variable {before : State → State} {i : Instr} {inj : WritePos → Pos} {k : Sequencer → Status → Locals → State → State}
  {v : Locals → State → Byte} {s : State} {q : Sequencer} {x : BitVec 8} {a : Bool} {pos : Pos} {l' : Locals}

/-- A peer that lets the data line go but for the acknowledgement clock, at which it pulls it when `a` holds. -/
def ackInput (a : Bool) (p : WritePos) (_ : BitVec 4) : Bool :=
  match p with
  | .ack _ => a
  | .clockLow | .load | .data _ | .dirIn => false

/-- The locals after a WriteByte that was acknowledged, or was not. -/
def afterWrite (a : Bool) (l : Locals) : Locals :=
  { l with result := shiftIn 0xFF (!a), s := if a then .ok else .slaveNack }

theorem ackStatus_shiftIn (a : Bool) : ackStatus (shiftIn 0xFF (!a)) = if a then .ok else .slaveNack := by
  cases a <;> rfl

/-- The byte is an operand, or read from BUF. -/
def ReadsBuf (v : Locals → State → Byte) : Prop := ∀ l s t, t.buf = s.buf → t.epoch = s.epoch → v l t = v l s

theorem goes_load (hv : ReadsBuf v) {l : Locals} (hdir : s.sclDir = true) (hport : s.sclPort = false) :
    Goes (fun u => writeByteStep (v l u) .load l u) s (.data .preload) l (loadSR (v l s) s) := by
  intro w d
  obtain ⟨w', hw⟩ := exists_micro_blur (s := s) (g := loadSR (v l s)) (fun _ _ => rfl) w d
  rw [Quiet.detect_eq (.inr (.inl (sclLevel_driven hdir hport)))] at hw
  exact ⟨w', d, by simp only [hv l s (blur w d s) rfl rfl, writeByteStep, hw]⟩

theorem Runs.write_load (h : Runs i inj (fun p l s => writeByteStep (v l s) p l s) k) (hv : ReadsBuf v)
    (hb : Steady before inj x (ackInput a)) (hs : s.seq = some q) (hp : q.pos = inj .load) (hx : q.loc.i = x)
    (hdir : s.sclDir = true) (hport : s.sclPort = false) :
    Reach before i 1 s (goTo q (inj (.data .preload)) q.loc { s with envSdaLow := false, sr := v q.loc s }) := by
  have hval : v q.loc (withSda false s) = v q.loc s := hv _ _ _ rfl rfl
  rw [← hval]
  exact h.advance .load hb hs hp hx (.inr (sclLevel_driven hdir hport)) (goes_load hv hdir hport)

/-- WriteByte from the load of its byte on (R107): both Transfers with the clock driven low and not held. -/
theorem Runs.write_fromLoad (h : Runs i inj (fun p l s => writeByteStep (v l s) p l s) k) (hv : ReadsBuf v)
    (hb : Steady before inj x (ackInput a)) (hs : s.seq = some q) (hp : q.pos = inj .load) (hx : q.loc.i = x)
    (hbd : boundaryOk s = true) (hport : s.sclPort = false) (henv : s.envSclLow = false)
    (hk : Returns k q (if a then .ok else .slaveNack) (afterWrite a q.loc) pos l') :
    ∃ y, Reach before i 62 s (goTo q pos l'
      { s with envSdaLow := a, latch := y, sr := 0xFF, cnt := 0, oif := true, sif := false, pf := false }) := by
  obtain ⟨hdir, hdd, hsr, hdp⟩ := boundaryOk_iff.mp hbd
  have hlow := sclLevel_driven hdir hport
  have h1 := h.write_load hv hb hs hp hx hdir hport
  have hdata : Steady before (fun p => inj (.data p)) x fun _ _ => false := hb.comp (emb := .data)
  have hack : Steady before (fun p => inj (.ack p)) x fun _ _ => a := hb.comp (emb := .ack)
  obtain ⟨y, h2⟩ := h.writeData.transfer hdata (by decide) (by decide) (s := goTo q (inj (.data .preload)) q.loc
    { s with envSdaLow := false, sr := v q.loc s }) rfl rfl hx hdir hport henv hdp rfl fun _ _ _ => rfl
  have h3 := (h1.trans h2).trans (h.advance .dirIn hb rfl rfl hx (.inl rfl)
    (goes_quiet (g := setSdaDir false) (fun _ _ => rfl) (.inr (.inl (sclLevel_driven hdir hport)))))
  obtain ⟨z, h4⟩ := h.writeAck.transfer hack (by decide) (by decide) (s := goTo q (inj (.ack .preload))
    { q.loc with result := srAfter s.sdaDir (fun _ => false) 8 (v q.loc s) }
    { s with envSdaLow := false, latch := y, sr := 0xFF, cnt := 0, oif := true, sif := false, pf := false,
             sdaDir := false }) rfl rfl hx hdir hport henv hdp
    (by cases a <;> rfl : _ = shiftIn 0xFF (!a)) (l' := l') (pos := pos) (by
      intro p₀ l₀ u
      simp only [ackStatus_shiftIn]
      exact hk p₀ l₀ u)
  have h5 := h3.trans h4
  exact ⟨z, h5.to (by simp [goTo, hdd])⟩

/-- WriteByte (R107), the clock not held: whatever the byte, the peer's answer decides the status. -/
theorem Runs.write (h : Runs i inj (fun p l s => writeByteStep (v l s) p l s) k) (hv : ReadsBuf v)
    (hb : Steady before inj x (ackInput a)) (hs : s.seq = some q) (hp : q.pos = inj .clockLow) (hx : q.loc.i = x)
    (hq : s.envSdaLow = false ∨ sclLevel s = false) (hbd : boundaryOk s = true) (henv : s.envSclLow = false)
    (hk : Returns k q (if a then .ok else .slaveNack) (afterWrite a q.loc) pos l') :
    ∃ y, Reach before i 63 s (goTo q pos l'
      { s with envSdaLow := a, latch := y, sr := 0xFF, cnt := 0, oif := true, sif := false, pf := false,
               sclPort := false }) := by
  have h1 := h.advance .clockLow hb hs hp hx hq (goes_quiet (fun _ _ => rfl) (.inl rfl))
  obtain ⟨y, h2⟩ := h.write_fromLoad hv hb (s := goTo q (inj .load) q.loc
    { s with envSdaLow := false, sclPort := false }) rfl rfl hx hbd rfl henv hk
  exact ⟨y, h1.trans h2⟩

end WriteByte

end Sys2Proof.Machine

/-! SUPPORT. What the samples of a Transfer make of SR, ReadByte, and the commands' last step. -/

namespace Sys2Proof.Machine

open Sys2Proof

/-! ## The samples -/

theorem getLsbD_shiftIn (sr : Byte) (bit : Bool) (j : Nat) :
    (shiftIn sr bit).getLsbD j = if j = 0 then bit else decide (j - 1 < 7) && sr.getLsbD (j - 1) := by
  rw [shiftIn, BitVec.getLsbD_append, BitVec.getLsbD_ofBool, BitVec.getLsbD_extractLsb', Nat.zero_add]
  grind

/-- A peer that sends `byte`, most significant bit first: at countdown `c` it lets the line show bit `c - 1`. -/
def sendInput (byte : Byte) (p : ReadPos) (c : BitVec 4) : Bool :=
  match p with
  | .data _ => !byte.getLsbD (c - 1).toNat
  | .dirIn | .dirOut | .loadAck | .ack _ => false

/-- The eight samples of a byte sent are the byte (R97, R104). -/
theorem srAfter_sendInput (byte sr : Byte) (p : XferPos) : srAfter false (sendInput byte (.data p)) 8 sr = byte := by
  apply BitVec.eq_of_getLsbD_eq
  intro j hj
  simp only [srAfter, sendInput, lineBit, Bool.false_and, Bool.false_or, Bool.not_not, getLsbD_shiftIn]
  interval_cases j <;> simp

/-- With the line free the engine's own SR[7] is what is sampled: the byte goes round. -/
theorem srAfter_free (byte : Byte) : srAfter true (fun _ => false) 8 byte = byte := by
  apply BitVec.eq_of_getLsbD_eq
  intro j hj
  simp only [srAfter, lineBit, Bool.true_and, Bool.or_false, Bool.not_not, getLsbD_shiftIn]
  interval_cases j <;> simp

theorem srAfter_free_ones (c : Nat) : srAfter true (fun _ => false) c 0xFF = 0xFF := by
  induction c with
  | zero => rfl
  | succ c ih =>
    have h : shiftIn 0xFF (lineBit true 0xFF false) = 0xFF := rfl
    rw [srAfter, h, ih]

theorem srAfter_pulled (drives : Bool) (c : Nat) (sr : Byte) : srAfter drives (fun _ => true) c sr = sr <<< c := by
  induction c generalizing sr with
  | zero => simp [srAfter]
  | succ c ih =>
    have h : shiftIn sr (lineBit drives sr true) = sr <<< 1 := by
      apply BitVec.eq_of_getLsbD_eq
      intro j hj
      rw [getLsbD_shiftIn, BitVec.getLsbD_shiftLeft, lineBit]
      grind
    rw [srAfter, ih, h, ← BitVec.shiftLeft_add, Nat.add_comm]

/-! ## ReadByte -/

section ReadByte

variable {before : State → State} {i : Instr} {inj : ReadPos → Pos} {k : Sequencer → Byte → Locals → State → State}
  {more : Locals → Bool} {s : State} {q : Sequencer} {x : BitVec 8} {byte : Byte} {m : Bool} {pos : Pos}
  {l' : Locals}

/-- The locals after a ReadByte that received `byte`. -/
def afterRead (byte : Byte) (more : Bool) (l : Locals) : Locals := { l with b := byte, result := ackPattern more }

theorem goes_loadAck {l : Locals} (hm : more l = m) (hdir : s.sclDir = true) (hport : s.sclPort = false) :
    Goes (readByteStep (more l) .loadAck l) s (.ack .preload) l (loadSR (ackPattern m) s) := by
  subst hm
  exact goes_quiet (fun _ _ => rfl) (.inr (.inl (sclLevel_driven hdir hport)))

/-- One sample of the acknowledgement pattern, which SR[7] drives, leaves the pattern (R83). -/
theorem srAfter_ackPattern (m : Bool) : srAfter true (fun _ => false) 1 (ackPattern m) = ackPattern m := by
  cases m <;> rfl

/-- ReadByte (R103), issued with the clock driven low and not held, beside a peer that sends `byte`. -/
theorem Runs.read (h : Runs i inj (fun p l => readByteStep (more l) p l) k)
    (hm : ∀ l : Locals, l.i = x → more l = m)
    (hb : Steady before inj x (sendInput byte)) (hs : s.seq = some q) (hp : q.pos = inj .dirIn) (hx : q.loc.i = x)
    (hbd : boundaryOk s = true) (hport : s.sclPort = false) (henv : s.envSclLow = false)
    (hk : Returns k q byte (afterRead byte m q.loc) pos l') :
    ∃ y, Reach before i 63 s (goTo q pos l'
      { s with envSdaLow := false, latch := y, sr := 0xFF, cnt := 0, oif := true, sif := false, pf := false }) := by
  obtain ⟨hdir, hdd, hsr, hdp⟩ := boundaryOk_iff.mp hbd
  have hlow := sclLevel_driven hdir hport
  have hdata : Steady before (fun p => inj (.data p)) x fun _ => sendInput byte (.data .preload) :=
    hb.comp (emb := .data)
  have hack : Steady before (fun p => inj (.ack p)) x fun _ _ => false := hb.comp (emb := .ack)
  have h1 := h.advance .dirIn hb hs hp hx (.inr hlow)
    (goes_quiet (g := setSdaDir false) (fun _ _ => rfl) (.inr (.inl hlow)))
  obtain ⟨y, h2⟩ := h.readData.transfer hdata (by decide) (by decide) (s := goTo q (inj (.data .preload)) q.loc
    { s with envSdaLow := false, sdaDir := false }) rfl rfl hx hdir hport henv hdp
    (srAfter_sendInput byte s.sr .preload) fun _ _ _ => rfl
  have h3 := (h1.trans h2).trans (h.advance .dirOut hb rfl rfl hx (.inr hlow)
    (goes_quiet (g := setSdaDir true) (fun _ _ => rfl) (.inr (.inl hlow))))
  have h4 := h3.trans (h.advance .loadAck hb rfl rfl hx (.inl rfl) (goes_loadAck (hm _ hx) hdir hport))
  obtain ⟨z, h5⟩ := h.readAck.transfer hack (by decide) (by decide) (s := goTo q (inj (.ack .preload))
    { q.loc with result := byte, b := byte }
    { s with envSdaLow := false, latch := y, sr := ackPattern m, cnt := 0, oif := true, sif := false, pf := false,
             sdaDir := true }) rfl rfl hx hdir hport henv hdp (srAfter_ackPattern m) (l' := l') (pos := pos) hk
  exact ⟨z, (h4.trans h5).to (by simp [goTo, hdd])⟩

end ReadByte

/-! ## The last step -/

section Finish

variable {before : State → State} {i : Instr} {s : State} {q : Sequencer} {e : Bool} {st : Status} {rx : Option Byte}

/-- The command's `finish` with the status and the byte result it writes (R48). -/
def Finishes (i : Instr) (q : Sequencer) (st : Status) (rx : Option Byte) : Prop :=
  ∀ s : State, s.seq = some q → exec i s = .next (finish st rx s)

theorem Finishes.reach (h : Finishes i q st rx) (hb : Brings before e s) (hs : s.seq = some q) :
    Reach before i 1 s (finish st rx (withSda e s)) :=
  .step hb fun w d => ⟨w, d, h _ hs⟩

variable {w : Word} {l : Locals}

theorem finishes_init : Finishes .init ⟨w, .finish, l⟩ .ok none := fun _ hs => withSeq_some _ hs

theorem finishes_start : Finishes .start ⟨w, .finish, l⟩ l.s none := fun _ hs => withSeq_some _ hs

theorem finishes_stop : Finishes .stop ⟨w, .finish, l⟩ l.s none := fun _ hs => withSeq_some _ hs

theorem finishes_transfer {n : BitVec 4} (hw : WellFormed (.transfer n)) :
    Finishes (.transfer n) ⟨w, .finish, l⟩ .ok (some l.result) :=
  fun _ hs => (if_pos hw).trans (withSeq_some _ hs)

theorem finishes_readByte {more : Bool} : Finishes (.readByte more) ⟨w, .finish, l⟩ .ok (some l.b) :=
  fun _ hs => withSeq_some _ hs

theorem finishes_writeByte {v : Byte} : Finishes (.writeByte v) ⟨w, .finish, l⟩ l.s none :=
  fun _ hs => withSeq_some _ hs

theorem finishes_txn {addr : BitVec 7} {stop : Bool} {count : BitVec 8} (hi : IsTxn i addr stop count)
    (hw : WellFormed i) : Finishes i ⟨w, .finish, l⟩ l.status none := by
  intro s hs
  obtain rfl | rfl := hi
  · exact withSeq_some _ hs
  · exact (if_pos hw).trans (withSeq_some _ hs)

end Finish

end Sys2Proof.Machine

/-! SUPPORT. The Signal Layer's commands (40_signal_layer.md), each from its issue to its `finish`. -/

namespace Sys2Proof.Machine

open Sys2Proof

/-! ## The lines at a command boundary -/

/-- At a boundary, with no other device pulling, LINES tells the clock port alone (R51). -/
theorem linesWord_boundary {s : State} (hb : boundaryOk s = true) (hq : PeerQuiet s) :
    linesWord s = if s.sclPort then 0x0000FF3F else 0x0000FF36 := by
  obtain ⟨h1, h2, h3, h4⟩ := boundaryOk_iff.mp hb
  obtain ⟨h5, h6⟩ := hq
  cases hp : s.sclPort <;>
    simp [linesWord, sclLevel, sdaLevel, sclPulled, sdaPulled, h1, h2, h3, h4, h5, h6, hp]

/-- At a boundary the collision signal is the peer's pull on the data line (R32). -/
theorem collision_boundary {s : State} (hb : AtBoundary s) : collision s = s.envSdaLow := by
  obtain ⟨hc, hb⟩ := hb
  obtain ⟨h1, h2, h3, h4⟩ := boundaryOk_iff.mp hb
  simp [collision, sdaLevel, sdaPulled, hc, h2, h3, h4]

/-! ## INIT -/

/-- Settles O9: INIT's step writes every field the statement lists, after the detector, and `finish` keeps them. -/
theorem initConfiguresTheEngine : Obligations.InitConfiguresTheEngine := by
  unfold Obligations.InitConfiguresTheEngine
  rintro s ⟨hbusy, w, hs⟩
  have hx : exec .init s = .next (goTo ⟨w, firstPos .init, firstLocals .init⟩ .finish (firstLocals .init)
      (initFlags (micro initLines s))) := withSeq_some _ hs
  refine ⟨_, _, hx, finishes_init _ rfl, by simpa using hbusy, ?_, rfl, rfl, rfl, by simp, by simp, by simp, ?_⟩
  · intro v hv
    simp only [List.mem_cons, List.not_mem_nil, or_false] at hv
    obtain rfl | rfl := hv <;> simp
  · rintro ⟨hscl, hsda⟩
    generalize hu : finish _ _ _ = u
    have hb : AtBoundary u := by
      subst hu
      exact ⟨rfl, by simp [boundaryOk, lineOk]⟩
    have hq : PeerQuiet u := by
      subst hu
      exact ⟨by simpa using hscl, by simpa using hsda⟩
    have hcol : collision u = false := (collision_boundary hb).trans hq.2
    constructor
    · subst hu
      simp [flagsWord, hcol]
    · rw [linesWord_boundary hb.2 hq]
      subst hu
      simp

/-! ## START -/

theorem pendingCheck_eq_ok {s : State} (h : s.params.checkPending = true → s.sif = false ∧ s.pf = false ∧
    collision s = false) : pendingCheck s = .ok := by
  unfold pendingCheck
  cases hc : s.params.checkPending
  · simp
  · simp [h hc]

/-- No flag is pending on a free bus. -/
theorem pendingCheck_free {s : State} (hb : AtBoundary s) (hsda : s.envSdaLow = false) (hsif : s.sif = false)
    (hpf : s.pf = false) : pendingCheck s = .ok :=
  pendingCheck_eq_ok fun _ => ⟨hsif, hpf, (collision_boundary hb).trans hsda⟩

/-- The fault of the first pending flag in the order SIF, PF, DC (R140). -/
theorem pendingCheck_pending {s : State} (hc : s.params.checkPending = true)
    (hf : (s.sif || s.pf || collision s) = true) :
    isTransient (pendingCheck s) = true ∧
      encStatus (pendingCheck s) = if s.sif then 1 else if s.pf then 2 else 3 := by
  unfold pendingCheck
  cases h1 : s.sif <;> cases h2 : s.pf <;> simp_all [isTransient, encStatus]

theorem not_ok_of_isTransient {st : Status} (h : isTransient st = true) : st ≠ .ok := by
  rintro rfl
  cases h

/-- A Start() that fails its pending check returns at once, and changes nothing. -/
theorem startStep_check_fails {l : Locals} {s : State} (h : pendingCheck s ≠ .ok) :
    startStep .check l s = .ret (pendingCheck s) { l with s := pendingCheck s } s := by
  rw [startStep, if_neg h, micro_id]

/-- START from its issue at a boundary, its pending check passing. -/
theorem start_run {s : State} (hi : JustIssued .start s) (hb : AtBoundary s) (hok : pendingCheck s = .ok) :
    ∃ w d, execSteps .start 10 s = .next (finish (startStatus s) none
      { s with sclPort := false, sif := sifAfterStart s, wire := w, hostData := d }) := by
  obtain ⟨-, w, hs⟩ := hi
  have hsteady (inj : StartPos → Pos) := steady_const reads_id inj 0 s.envSdaLow
  have h9 := runs_start.start (hsteady _) hs rfl rfl rfl hb hok fun _ _ _ => rfl
  have h10 := h9.trans (finishes_start.reach (brings_agents reads_id (fun _ _ => rfl) (.inl rfl)) rfl)
  rw [withSda_self (by rfl)] at h10
  obtain ⟨w', d, h⟩ := h10.exists_next
  rw [execSteps_eq .start 10 rfl]
  exact ⟨w', d, h⟩

/-- Settles O10. -/
theorem startMakesAStartCondition : Obligations.StartMakesAStartCondition := by
  unfold Obligations.StartMakesAStartCondition
  intro s hi hb hq hsif hpf
  have hok : pendingCheck s = .ok := pendingCheck_free hb hq.2 hsif hpf
  obtain ⟨w, d, h⟩ := start_run hi hb hok
  have hmade : sifAfterStart s = true := by simp [sifAfterStart, hq.1, hq.2]
  refine ⟨_, h, rfl, rfl, ?_, hmade, hpf, hb, ?_⟩
  · simp [startStatus, hmade, encStatus]
  · exact linesWord_boundary (by exact hb.2) hq

/-- Settles O11: START returns at its first step, with the pending check's fault. -/
theorem startReportsThePendingFault : Obligations.StartReportsThePendingFault := by
  unfold Obligations.StartReportsThePendingFault
  rintro s ⟨-, w, hs⟩ hc hf
  obtain ⟨htransient, hcode⟩ := pendingCheck_pending hc hf
  have h1 := runs_start.exec_ret hs rfl (startStep_check_fails (not_ok_of_isTransient htransient))
  rw [execSteps_succ h1, execSteps_succ (finishes_start _ rfl), ← hcode]
  rfl

theorem startStatus_code {s : State} (h : sifAfterStart s = false) :
    encStatus (startStatus s) = if s.params.verifyStart then 4 else 0 := by
  cases hv : s.params.verifyStart <;> simp [startStatus, h, hv, encStatus]

/-- Settles O12: with the clock held no start condition is made, and the status is the verification's. -/
theorem startBesideAHeldClock : Obligations.StartBesideAHeldClock := by
  unfold Obligations.StartBesideAHeldClock
  intro s hi hb hscl hsda hsif hpf
  have hok : pendingCheck s = .ok := pendingCheck_free hb hsda hsif hpf
  have hnone : sifAfterStart s = false := by simp [sifAfterStart, hsif, hscl]
  obtain ⟨w, d, h⟩ := start_run hi hb hok
  exact ⟨_, h, rfl, hnone, startStatus_code hnone⟩

/-- Settles O13: with the data line held the pending check sees a collision; without it no start condition is made. -/
theorem startBesideHeldData : Obligations.StartBesideHeldData := by
  unfold Obligations.StartBesideHeldData
  intro s hi hb hsda hsif hpf
  constructor
  · intro hc
    have hf : (s.sif || s.pf || collision s) = true := by simp [collision_boundary hb, hsda]
    exact ⟨_, startReportsThePendingFault s hi hc hf, rfl, by simp [hsif, hpf]⟩
  · intro hc
    have hok : pendingCheck s = .ok := pendingCheck_eq_ok (by simp [hc])
    have hnone : sifAfterStart s = false := by simp [sifAfterStart, hsif, hsda]
    obtain ⟨w, d, h⟩ := start_run hi hb hok
    exact ⟨_, h, rfl, hnone, startStatus_code hnone⟩

/-- Settles O14: SIF stays set through Start(), so its verification passes. -/
theorem startPassesOnAStickyFlag : Obligations.StartPassesOnAStickyFlag := by
  unfold Obligations.StartPassesOnAStickyFlag
  intro s hi hb hsif hc
  have hset : sifAfterStart s = true := by simp [sifAfterStart, hsif]
  obtain ⟨w, d, h⟩ := start_run hi hb (pendingCheck_eq_ok (by simp [hc]))
  exact ⟨_, h, rfl, by simp [startStatus, hset, encStatus], hset⟩

/-! ## STOP -/

/-- STOP from its issue at a boundary to its wait. -/
theorem stop_toWait {s : State} (hi : JustIssued .stop s) (hb : AtBoundary s) :
    ∃ w d q, q.pos = .stop .waitHigh ∧ execSteps .stop 2 s = .next { s with
      seq := some q, sdaPort := false, sclPort := true, sif := s.sif || (s.sclPort && !s.envSclLow && !s.envSdaLow),
      wire := w, hostData := d } := by
  obtain ⟨-, w, hs⟩ := hi
  have h2 := runs_stop.stop_toWait (steady_const reads_id _ 0 s.envSdaLow) hs rfl rfl (.inl rfl) hb
  obtain ⟨w', d, h⟩ := h2.exists_next
  rw [execSteps_eq .stop 2 rfl]
  exact ⟨w', d, _, rfl, h⟩

/-- STOP from its wait on, with the clock not held. -/
theorem stop_fromWait {s : State} {q : Sequencer} (hs : s.seq = some q) (hp : q.pos = .stop .waitHigh)
    (henv : s.envSclLow = false) (hcfg : s.cfg = true) (hok : stopOk .waitHigh s = true) :
    ∃ w d, execSteps .stop 6 s = .next (finish (stopStatus s.envSdaLow s) none
      { s with sdaPort := true, pf := false, wire := w, hostData := d }) := by
  obtain ⟨cw, _, l⟩ := q
  obtain rfl : _ = Pos.stop .waitHigh := hp
  have h5 := runs_stop.stop_fromWait (steady_const reads_id _ l.i s.envSdaLow) hs rfl rfl rfl henv hcfg hok
    fun _ _ _ => rfl
  have h6 := h5.trans (finishes_stop.reach (brings_agents reads_id (fun _ _ => rfl) (.inl rfl)) rfl)
  rw [withSda_self (by rfl)] at h6
  obtain ⟨w, d, h⟩ := h6.exists_next
  rw [execSteps_eq .stop 6 rfl]
  exact ⟨w, d, h⟩

end Sys2Proof.Machine

/-! SUPPORT. STOP and TRANSFER (40_signal_layer.md), each from its issue to its `finish`, held or hung at its wait. -/

namespace Sys2Proof.Machine

open Sys2Proof

theorem execSteps_add {i : Instr} {j k : Nat} {s t : State} (h : execSteps i j s = .next t) :
    execSteps i (j + k) s = execSteps i k t := by
  induction j generalizing s with
  | zero =>
    rw [Nat.zero_add]
    exact congrArg (execSteps i k) (Host.Outcome.next.inj h)
  | succ j ih =>
    rw [Nat.succ_add, execSteps]
    rw [execSteps] at h
    cases hx : exec i s with
    | next u =>
      rw [hx] at h
      exact ih h
    | fault | refused =>
      rw [hx] at h
      cases h

theorem envStep_seq (line : Line) (low : Bool) (s : State) : (envStep line low s).seq = s.seq := by
  cases line <;> exact micro_seq _ _

theorem envStep_sclPulled (line : Line) (low : Bool) (s : State) : sclPulled (envStep line low s) = sclPulled s := by
  cases line <;> simp [envStep, sclPulled]

/-! ## STOP -/

theorem stopOk_waitHigh {s : State} (hb : boundaryOk s = true) (d : Bool) (w : List Levels) (q : Sequencer)
    (h : Word) :
    stopOk .waitHigh { s with seq := some q, sdaPort := false, sclPort := true, sif := d, wire := w, hostData := h } =
      true := by
  obtain ⟨hcd, hdd, hsr, -⟩ := boundaryOk_iff.mp hb
  simp [stopOk, lineOk, hcd, hdd, hsr]

/-- STOP from its issue at a boundary, with the clock not held. -/
theorem stop_run {s : State} (hi : JustIssued .stop s) (hb : AtBoundary s) (henv : s.envSclLow = false) :
    ∃ w d, execSteps .stop 8 s = .next (finish (stopStatus s.envSdaLow s) none { s with
      sdaPort := true, sclPort := true, sif := s.sif || (s.sclPort && !s.envSdaLow), pf := false, wire := w,
      hostData := d }) := by
  obtain ⟨w, d, q, hp, h2⟩ := stop_toWait hi hb
  obtain ⟨w', d', h6⟩ := stop_fromWait (q := q) (s := { s with
    seq := some q, sdaPort := false, sclPort := true, sif := s.sif || (s.sclPort && !s.envSclLow && !s.envSdaLow),
    wire := w, hostData := d }) rfl hp henv hb.1 (stopOk_waitHigh hb.2 _ _ _ _)
  rw [← execSteps_add h2] at h6
  have hsif : (s.sclPort && !s.envSclLow && !s.envSdaLow) = (s.sclPort && !s.envSdaLow) := by simp [henv]
  rw [hsif] at h6
  exact ⟨w', d', h6⟩

/-- Settles O15. -/
theorem stopMakesAStopCondition : Obligations.StopMakesAStopCondition := by
  unfold Obligations.StopMakesAStopCondition
  intro s hi hb hq
  obtain ⟨hcfg, hbd⟩ := hb
  obtain ⟨w, d, h⟩ := stop_run hi ⟨hcfg, hbd⟩ hq.1
  obtain ⟨hcd, hdd, hsr, hdp⟩ := boundaryOk_iff.mp hbd
  have hafter : boundaryOk (finish (stopStatus s.envSdaLow s) none { s with
      sdaPort := true, sclPort := true, sif := s.sif || (s.sclPort && !s.envSdaLow), pf := false, wire := w,
      hostData := d }) = true := boundaryOk_iff.mpr ⟨hcd, hdd, hsr, rfl⟩
  refine ⟨_, h, rfl, rfl, ?_, rfl, ?_, ⟨hcfg, hafter⟩, linesWord_boundary hafter hq⟩
  · simp [stopStatus, hq.2, encStatus]
  · simp [hq.2]

/-- Settles O16: the data line stays low through Stop(); the peer's release makes the rising edge, with the clock
high. -/
theorem stopBesideHeldData : Obligations.StopBesideHeldData := by
  unfold Obligations.StopBesideHeldData
  intro s hi hb hscl hsda hpf
  obtain ⟨w, d, h⟩ := stop_run hi hb hscl
  obtain ⟨hcfg, hbd⟩ := hb
  obtain ⟨hcd, hdd, hsr, hdp⟩ := boundaryOk_iff.mp hbd
  refine ⟨_, h, rfl, rfl, ?_, ?_⟩
  · cases hv : s.params.verifyStop <;> simp [stopStatus, hsda, hpf, hv, encStatus]
  · simp [envStep, stopSeen, sclLevel, sdaLevel, sclPulled, sdaPulled, hcfg, hsr, hscl, hsda]

theorem execSteps_stutter {i : Instr} {s : State} (h : exec i s = .next s) (k : Nat) : execSteps i k s = .next s := by
  induction k with
  | zero => rfl
  | succ k ih => rw [execSteps_succ h, ih]

/-- The clock let go is no condition: the data line does not move. -/
theorem envStep_scl_release (s : State) :
    ∃ w, envStep .scl false s = { s with envSclLow := false, wire := w } := by
  have hd : detect s { s with envSclLow := false } = { s with envSclLow := false } :=
    Quiet.detect_eq (.inl rfl)
  simp only [envStep, micro, commit, recordLines, hd]
  split
  · exact ⟨s.wire, rfl⟩
  · exact ⟨_, rfl⟩

/-- Settles O17: the wait is held; with the clock let go the rest of Stop() runs, the data line free. -/
theorem stopWaitsForAHeldClock : Obligations.StopWaitsForAHeldClock := by
  unfold Obligations.StopWaitsForAHeldClock
  intro s hi hb hscl hsda
  obtain ⟨w, d, q, hp, h2⟩ := stop_toWait hi hb
  have hok := stopOk_waitHigh hb.2 (s.sif || (s.sclPort && !s.envSclLow && !s.envSdaLow)) w q d
  have hheld : exec .stop _ = _ := runs_stop.exec_held (s := { s with
    seq := some q, sdaPort := false, sclPort := true, sif := s.sif || (s.sclPort && !s.envSclLow && !s.envSdaLow),
    wire := w, hostData := d }) rfl hp (stopStep_held (waitSclHigh_eq_held.mpr ⟨by simp [sclPulled], hscl⟩))
  obtain ⟨w', hrelease⟩ := envStep_scl_release { s with
    seq := some q, sdaPort := false, sclPort := true, sif := s.sif || (s.sclPort && !s.envSclLow && !s.envSdaLow),
    wire := w, hostData := d }
  obtain ⟨w'', d', h6⟩ := stop_fromWait (q := q) (s := { s with
    seq := some q, sdaPort := false, sclPort := true, sif := s.sif || (s.sclPort && !s.envSclLow && !s.envSdaLow),
    envSclLow := false, wire := w', hostData := d }) rfl hp rfl hb.1 hok
  refine ⟨_, _, h2, execSteps_stutter hheld, hi.1, by rw [hrelease]; exact h6, rfl, ?_, rfl⟩
  simp [stopStatus, hsda, encStatus]

/-! ## TRANSFER -/

/-- Settles O18: the clocked bit, beside a peer that does not move its data input. -/
theorem clockedBitShiftsInTheSample : Obligations.ClockedBitShiftsInTheSample := by
  unfold Obligations.ClockedBitShiftsInTheSample
  rintro n s hw ⟨q, hs, hp⟩ hdir hport henv
  obtain ⟨w, d, h⟩ := ((runs_transfer hw).clockedBit (steady_const reads_id _ q.loc.i s.envSdaLow) hs hp rfl hdir
    hport henv).exists_next
  have hone : decide (s.cnt - 1 = 0) = decide (s.cnt = 1) := decide_eq_decide.mpr sub_eq_zero
  rw [withSda_self rfl, hone] at h
  rw [execSteps_eq _ 6 rfl]
  exact ⟨_, h, rfl, rfl, rfl, hport, rfl, rfl, _, rfl, rfl⟩

theorem srAfter_const (e : Bool) (c : Nat) :
    srAfter true (fun _ => e) c 0xFF = if e then (0xFF#8) <<< c else 0xFF := by
  cases e
  · exact srAfter_free_ones c
  · exact srAfter_pulled true c _

/-- The operand of TRANSFER is 1..8 (R76). -/
theorem transfer_operand {n : BitVec 4} (hw : WellFormed (.transfer n)) : 1 ≤ n.toNat ∧ n.toNat ≤ 8 := by
  simpa only [WellFormed, wellFormed, Bool.and_eq_true, decide_eq_true_eq] using hw

/-- Settles O19: the samples are all of the one level the peer leaves the line at. -/
theorem transferClocksNBits : Obligations.TransferClocksNBits := by
  unfold Obligations.TransferClocksNBits
  rintro n s hw ⟨-, w, hs⟩ ⟨hcfg, hbd⟩ hport henv
  obtain ⟨hdir, hdd, hsr, hdp⟩ := boundaryOk_iff.mp hbd
  obtain ⟨hn, h8⟩ := transfer_operand hw
  obtain ⟨v, hx⟩ := (runs_transfer hw).transfer (steady_const reads_id _ 0 s.envSdaLow) hn h8 hs rfl rfl hdir hport
    henv hdp (by rw [hdd, hsr, srAfter_const]) fun _ _ _ => rfl
  have hall := hx.trans ((finishes_transfer hw).reach (brings_agents reads_id (fun _ _ => rfl) (.inl rfl)) rfl)
  obtain ⟨w', d, h⟩ := hall.exists_next
  rw [execSteps_eq _ _ rfl]
  exact ⟨_, h, rfl, rfl, rfl, rfl, rfl, rfl, rfl, rfl, rfl, hport, hcfg, boundaryOk_iff.mpr ⟨hdir, rfl, rfl, hdp⟩⟩

/-! ## The hang -/

section Hang

variable {i : Instr} {inj : XferPos → Pos} {n : BitVec 4} {k : Sequencer → Byte → Locals → State → State}
  {s : State} {q : Sequencer}

theorem xferStep_hung {l : Locals} (h : sclPulled s = true) : xferStep n .sample l s = .hung := by
  simp only [xferStep, waitSclHigh_eq_hung.mpr h]

/-- A Transfer entered with the clock released drives it low itself, three steps on, and waits for it (R98 (a)). -/
theorem Runs.exec_toggled (h : Runs i inj (xferStep n) k) (hs : s.seq = some q) (hp : q.pos = inj .preload)
    (hdir : s.sclDir = true) (hport : s.sclPort = true) :
    ∃ t, execSteps i 3 s = .next t ∧ t.busy = s.busy ∧ sclPulled t = true ∧ AtPos (inj .sample) t := by
  have h1 := h.exec_goto (p' := .setup) hs hp rfl
  have h2 := h.exec_goto (q := ⟨q.curCmd, inj .setup, q.loc⟩) (p' := .toggle) (s := goTo q (inj .setup) q.loc
    (preloadFlags n (micro id s))) rfl rfl rfl
  have h3 := h.exec_goto (q := ⟨q.curCmd, inj .toggle, q.loc⟩) (p' := .sample) (s := goTo _ (inj .toggle) q.loc
    (micro (delay Config.tSetup) (goTo q (inj .setup) q.loc (preloadFlags n (micro id s))))) rfl rfl rfl
  refine ⟨_, (execSteps_succ h1 2).trans ((execSteps_succ h2 1).trans (execSteps_succ h3 0)), ?_, ?_, _, rfl, rfl⟩
  · simp [goTo, toggleScl]
  · simp [sclPulled, goTo, toggleScl, hdir, hport]

variable {t : State}

/-- A wait for a clock the engine itself pulls hangs, whatever the peer does to the lines (R138). -/
theorem Runs.exec_hung_of_pulled (h : Runs i inj (xferStep n) k) (hpull : sclPulled t = true)
    (hpos : AtPos (inj .sample) t) :
    exec i t = .fault .hangOwnClock ∧ ∀ line low, exec i (envStep line low t) = .fault .hangOwnClock := by
  obtain ⟨q, hs, hp⟩ := hpos
  exact ⟨h.exec_hung hs hp (xferStep_hung hpull), fun line low =>
    h.exec_hung ((envStep_seq ..).trans hs) hp (xferStep_hung ((envStep_sclPulled ..).trans hpull))⟩

end Hang

/-- Settles O20: TRANSFER hangs in its fourth step, READ_BYTE in its fifth. -/
theorem releasedClockHangsTransferAndReadByte : Obligations.ReleasedClockHangsTransferAndReadByte := by
  unfold Obligations.ReleasedClockHangsTransferAndReadByte
  rintro i s hw ⟨hbusy, w, hs⟩ ⟨-, hbd⟩ hport hi
  obtain ⟨hdir, -⟩ := boundaryOk_iff.mp hbd
  obtain ⟨n, rfl⟩ | ⟨more, rfl⟩ := hi
  · obtain ⟨t, hx, hb, hpull, hpos⟩ := (runs_transfer hw).exec_toggled hs rfl hdir hport
    exact ⟨3, t, by omega, hx, hb.trans hbusy, (runs_transfer hw).exec_hung_of_pulled hpull hpos⟩
  · obtain ⟨u, h1, hu, hudir, huport, hubusy⟩ : ∃ u, exec (.readByte more) s = .next u ∧
        u.seq = some ⟨w, .readByte (.data .preload), firstLocals (.readByte more)⟩ ∧ u.sclDir = true ∧
        u.sclPort = true ∧ u.busy = true :=
      ⟨_, (runs_readByte more).exec_goto hs rfl rfl, rfl, by simpa using hdir, by simpa using hport,
        by simpa using hbusy⟩
    obtain ⟨t, hx, hb, hpull, hpos⟩ := (runs_readByte more).readData.exec_toggled hu rfl hudir huport
    exact ⟨4, t, le_rfl, (execSteps_succ h1 3).trans hx, hb.trans hubusy,
      (runs_readByte more).readData.exec_hung_of_pulled hpull hpos⟩

end Sys2Proof.Machine

/-! SUPPORT. READ_BYTE and WRITE_BYTE (41_byte_layer.md), each from its issue to its `finish`. -/

namespace Sys2Proof.Machine

open Sys2Proof

/-! ## The peers -/

/-- A peer that sees only the sequencer and the countdown is the same under a blur. -/
theorem steady_pull {pull : State → Bool} {π : Type} {inj : π → Pos} {x : BitVec 8} {b : π → BitVec 4 → Bool}
    (h : ∀ u q p, u.seq = some q → q.pos = inj p → q.loc.i = x → pull u = b p u.cnt) :
    Steady (agents id pull) inj x b :=
  fun u q p hu hp hx hq => brings_agents reads_id (fun w d => h (blur w d u) q p hu hp hx) hq

/-- The peer that sends, seen from a ReadByte. -/
theorem steady_sendPull (bytes : BitVec 8 → Byte) (x : BitVec 8) :
    Steady (agents id (sendPull bytes)) .readByte x (sendInput (bytes x)) :=
  steady_pull fun u q p hu hp hx => by
    subst hx
    cases p <;> simp [sendPull, hu, hp, sendInput]

/-- The peer that acknowledges, seen from a WriteByte. -/
theorem steady_ackPull (x : BitVec 8) : Steady (agents id ackPull) .writeByte x (ackInput true) :=
  steady_pull fun u q p hu hp _ => by cases p <;> simp [ackPull, hu, hp, ackInput]

/-- A peer that never pulls does not acknowledge either. -/
theorem ackInput_false : ackInput false = fun _ _ => false := by
  funext p c
  cases p <;> rfl

theorem steady_free {host : State → State} (hhost : Reads host) (inj : WritePos → Pos) (x : BitVec 8) :
    Steady (agents host fun _ => false) inj x (ackInput false) := by
  rw [ackInput_false]
  exact steady_const hhost inj x false

/-! ## READ_BYTE -/

/-- Settles O21. -/
theorem readByteReturnsThePeersByte : Obligations.ReadByteReturnsThePeersByte := by
  unfold Obligations.ReadByteReturnsThePeersByte
  rintro more b s ⟨-, w, hs⟩ ⟨hcfg, hbd⟩ hport henv
  obtain ⟨hdir, hdd, hsr, hdp⟩ := boundaryOk_iff.mp hbd
  obtain ⟨y, hrun⟩ := (runs_readByte more).read (fun _ _ => rfl) (steady_sendPull (fun _ => b) 0) hs rfl rfl hbd hport
    henv fun _ _ _ => rfl
  have hall := hrun.trans (finishes_readByte.reach (e := false)
    (brings_agents reads_id (fun _ _ => rfl) (.inr (sclLevel_driven hdir hport))) rfl)
  obtain ⟨w', d, h⟩ := hall.exists_next
  rw [peerSteps_eq]
  exact ⟨_, h, rfl, rfl, rfl, hport, ⟨hcfg, boundaryOk_iff.mpr ⟨hdir, hdd, rfl, hdp⟩⟩, rfl⟩

/-! ## WRITE_BYTE -/

/-- Settles O23: no peer pulls the line at the acknowledgement clock. -/
theorem writeByteWithoutPeerIsNack : Obligations.WriteByteWithoutPeerIsNack := by
  unfold Obligations.WriteByteWithoutPeerIsNack
  rintro v s ⟨-, w, hs⟩ ⟨hcfg, hbd⟩ ⟨henv, hsda⟩
  obtain ⟨hdir, hdd, hsr, hdp⟩ := boundaryOk_iff.mp hbd
  obtain ⟨y, hrun⟩ := (runs_writeByte v).write (fun _ _ _ _ _ => rfl) (steady_free reads_id _ 0) hs rfl rfl
    (.inl hsda) hbd henv fun _ _ _ => rfl
  have hall := hrun.trans (finishes_writeByte.reach (brings_agents reads_id (fun _ _ => rfl) (.inl rfl)) rfl)
  obtain ⟨w', d, h⟩ := hall.exists_next
  rw [execSteps_eq _ _ hsda]
  exact ⟨_, h, rfl, rfl, rfl, rfl, rfl, hcfg, boundaryOk_iff.mpr ⟨hdir, hdd, rfl, hdp⟩⟩

/-- Settles O24: the peer may make a condition as it lets the line go before the first step; from the load on it does
not. -/
theorem writeByteAcknowledgedIsOk : Obligations.WriteByteAcknowledgedIsOk := by
  unfold Obligations.WriteByteAcknowledgedIsOk
  rintro v s ⟨-, w, hs⟩ ⟨hcfg, hbd⟩ henv
  obtain ⟨hdir, hdd, hsr, hdp⟩ := boundaryOk_iff.mp hbd
  have hpull : ackPull s = false := by simp [ackPull, hs, firstPos]
  have hfirst : exec (.writeByte v) (agents id ackPull s) = _ :=
    (runs_writeByte v).exec_goto (s := agents id ackPull s) (p' := .load) ((envStep_seq ..).trans hs) rfl rfl
  generalize hu : goTo _ _ _ _ = u at hfirst
  have hsame : u.rxdata = s.rxdata ∧ u.buf = s.buf ∧ u.envSclLow = false ∧ u.sclPort = false ∧ u.cfg = true := by
    subst hu
    simp [agents, hpull, envStep, henv, hcfg]
  have hbdu : boundaryOk u = true := by
    subst hu
    simp [agents, hpull, envStep, boundaryOk_iff, hdir, hdd, hsr, hdp]
  obtain ⟨hrx, hbuf, henvu, hportu, hcfgu⟩ := hsame
  obtain ⟨hdiru, hddu, -, hdpu⟩ := boundaryOk_iff.mp hbdu
  obtain ⟨y, hrun⟩ := (runs_writeByte v).write_fromLoad (s := u) (fun _ _ _ _ _ => rfl) (steady_ackPull 0)
    (by subst hu; rfl) rfl rfl hbdu hportu henvu fun _ _ _ => rfl
  have hall := hrun.trans (finishes_writeByte.reach (e := false)
    (brings_agents reads_id (fun _ _ => rfl) (.inr (sclLevel_driven hdiru hportu))) rfl)
  obtain ⟨w', d, h⟩ := hall.exists_next
  rw [peerSteps_eq, busSteps, hfirst]
  exact ⟨_, h, rfl, rfl, hrx, hbuf, hportu, hcfgu, boundaryOk_iff.mpr ⟨hdiru, hddu, rfl, hdpu⟩⟩

/-- Settles O25: with the line free, the data Transfer samples the engine's own byte. -/
theorem writeByteCarriesItsValue : Obligations.WriteByteCarriesItsValue := by
  unfold Obligations.WriteByteCarriesItsValue
  rintro v s ⟨-, w, hs⟩ ⟨hcfg, hbd⟩ ⟨henv, hsda⟩
  obtain ⟨hdir, hdd, hsr, hdp⟩ := boundaryOk_iff.mp hbd
  have hrun := runs_writeByte v
  have hfree := steady_free (host := id) reads_id .writeByte 0
  have hdata : Steady (agents id fun _ => false) (fun p => .writeByte (.data p)) 0 fun _ _ => false :=
    hfree.comp (emb := .data)
  have h1 := hrun.advance .clockLow hfree hs rfl rfl (.inl hsda)
    (goes_quiet (g := setSclPort false) (fun _ _ => rfl) (.inl rfl))
  have h2 := h1.trans (hrun.write_load (fun _ _ _ _ _ => rfl) hfree rfl rfl rfl hdir rfl)
  obtain ⟨y, h3⟩ := hrun.writeData.transfer_toCapture hdata (by decide) (by decide) (s := goTo
      ⟨w, .writeByte (.data .preload), firstLocals (.writeByte v)⟩ (.writeByte (.data .preload))
      (firstLocals (.writeByte v)) { s with envSdaLow := false, sclPort := false, sr := v })
    rfl rfl rfl hdir rfl henv hdp
  obtain ⟨w', d, h⟩ := (h2.trans h3).exists_next
  rw [execSteps_eq _ _ hsda]
  exact ⟨_, _, h, rfl, rfl, (congrArg (srAfter · (fun _ => false) 8 v) hdd).trans (srAfter_free v)⟩

end Sys2Proof.Machine

/-! SUPPORT. What the two transactions share (42_transaction_layer.md): attempts, address byte, end of the loop. -/

namespace Sys2Proof.Machine

open Sys2Proof

section Ends

variable {π ρ : Type} {i : Instr} {inj : π → Pos} {f : π → Locals → State → ProcStep π ρ}
  {k : Sequencer → ρ → Locals → State → State} {s t : State} {q : Sequencer} {p : π}

/-- A next state of a command within a procedure: a step on, a return, or none. -/
theorem Runs.exec_next_cases (h : Runs i inj f k) (hs : s.seq = some q) (hp : q.pos = inj p) (hx : exec i s = .next t) :
    (∃ p' l u, t = goTo q (inj p') l u) ∨ (∃ r l u, f p q.loc s = .ret r l u ∧ t = k q r l u) ∨ t = s := by
  rw [h s q p hs hp] at hx
  cases hf : f p q.loc s with
  | goto p' l u =>
    rw [hf] at hx
    exact .inl ⟨p', l, u, (Host.Outcome.next.inj hx).symm⟩
  | ret r l u =>
    rw [hf] at hx
    exact .inr (.inl ⟨r, l, u, rfl, (Host.Outcome.next.inj hx).symm⟩)
  | held =>
    rw [hf] at hx
    exact .inr (.inr (Host.Outcome.next.inj hx).symm)
  | hung =>
    rw [hf] at hx
    cases hx

end Ends

theorem atPos_goTo {q : Sequencer} {p p' : Pos} {l : Locals} {s : State} : AtPos p' (goTo q p l s) ↔ p = p' :=
  ⟨fun ⟨_, h, hp⟩ => by cases h; exact hp, fun h => ⟨_, rfl, h⟩⟩

/-! ## The end of the loop -/

/-- A procedure that neither steps nor returns to `finish` does not lead there. -/
theorem Runs.not_finish {π ρ : Type} {i : Instr} {inj : π → Pos} {f : π → Locals → State → ProcStep π ρ}
    {k : Sequencer → ρ → Locals → State → State} {s t : State} {q : Sequencer} {p : π} (h : Runs i inj f k)
    (hs : s.seq = some q) (hp : q.pos = inj p) (hinj : ∀ p, inj p ≠ .finish)
    (hk : ∀ r l u, ¬ AtPos .finish (k q r l u)) (hx : exec i s = .next t) (hne : s ≠ t) : ¬ AtPos .finish t := by
  intro hat
  obtain ⟨p', l, u, rfl⟩ | ⟨r, l, u, -, rfl⟩ | rfl := h.exec_next_cases hs hp hx
  · exact hinj p' (atPos_goTo.mp hat)
  · exact hk r l u hat
  · exact hne rfl

/-- With STOP = 1 the end of the loop is not the command's `finish`. -/
theorem not_finish_txnLeave {q : Sequencer} {st : Status} {l : Locals} {u : State} :
    ¬ AtPos .finish (txnLeave q true st l u) := by
  simp [txnLeave, atPos_goTo]

theorem not_finish_txnAfterStart {q : Sequencer} {st : Status} {l : Locals} {u : State} :
    ¬ AtPos .finish (txnAfterStart q true st l u) := by
  unfold txnAfterStart
  split_ifs <;> simp [not_finish_txnLeave, atPos_goTo]

theorem not_finish_txnNextByte {q : Sequencer} {count : BitVec 8} {first : Pos} {l : Locals} {u : State}
    (hfirst : first ≠ .finish) : ¬ AtPos .finish (txnNextByte q true count first l u) := by
  unfold txnNextByte
  split_ifs <;> simp [not_finish_txnLeave, atPos_goTo, hfirst]

theorem not_finish_afterAddress {i : Instr} {q : Sequencer} {count : BitVec 8} {st : Status} {l : Locals} {u : State} :
    ¬ AtPos .finish (afterAddress i true count q st l u) := by
  have hpos : payloadPos i ≠ .finish := by cases i <;> simp [payloadPos]
  unfold afterAddress
  split_ifs <;> simp [not_finish_txnLeave, atPos_goTo, hpos]

theorem not_finish_afterPayload {q : Sequencer} {count : BitVec 8} {st : Status} {l : Locals} {u : State} :
    ¬ AtPos .finish (afterPayload true count q st l u) := by
  unfold afterPayload
  split_ifs <;> simp [not_finish_txnLeave, not_finish_txnNextByte]

/-- Stop() returns from its last step, with the verification's status. -/
theorem stopStep_ret {p : StopPos} {l l' : Locals} {s u : State} {st : Status} (h : stopStep p l s = .ret st l' u) :
    p = .verify ∧ st = verifyStopStatus s := by
  cases p <;> simp [stopStep] at h
  case waitHigh => split at h <;> simp at h
  case verify => exact ⟨rfl, h.1.symm⟩

theorem stop_toFinish {i : Instr} {addr : BitVec 7} {stop : Bool} {count : BitVec 8} (hi : IsTxn i addr stop count)
    (hw : WellFormed i) {s t : State} {q : Sequencer} {p : StopPos} (hs : s.seq = some q) (hp : q.pos = .stop p)
    (hx : exec i s = .next t) (hat : AtPos .finish t) (hne : s ≠ t) :
    AtPos (.stop .verify) s ∧ ∃ r, t.seq = some r ∧ r.loc.status = verifyStopStatus s := by
  obtain ⟨p', l, u, rfl⟩ | ⟨st, l, u, hf, rfl⟩ | rfl := (runs_txnStop hi hw).exec_next_cases hs hp hx
  · cases atPos_goTo.mp hat
  · obtain ⟨rfl, rfl⟩ := stopStep_ret hf
    exact ⟨⟨q, hs, hp⟩, _, rfl, rfl⟩
  · exact (hne rfl).elim

/-- A command that answers a next state is well formed (R84). -/
theorem wellFormed_of_readTxn_next {addr : BitVec 7} {stop : Bool} {count : BitVec 8} {s t : State}
    (h : exec (.readTxn addr stop count) s = .next t) : WellFormed (.readTxn addr stop count) := by
  by_contra hw
  have hx : exec (.readTxn addr stop count) s = .refused .reservedCommand := if_neg hw
  rw [hx] at h
  cases h

/-- Settles O32: of all the procedures a transaction runs, only Stop() returns to `finish` when STOP = 1. -/
theorem stopBitAlwaysRunsTheStop : Obligations.StopBitAlwaysRunsTheStop := by
  unfold Obligations.StopBitAlwaysRunsTheStop
  intro i addr count s t hi hx hat hne
  have hw : WellFormed i := by
    obtain rfl | rfl := hi
    · rfl
    · exact wellFormed_of_readTxn_next hx
  obtain ⟨q, hs, ho, rfl | ⟨-, st, rx, rfl, -⟩ | ⟨hfin, -⟩⟩ := exec_next hx
  · exact (hne rfl).elim
  · obtain ⟨r, hr, -⟩ := hat
    cases hr
  cases hp : q.pos with
  | stop p => exact stop_toFinish hi hw hs hp hx hat hne
  | start p =>
    exact ((runs_txnStart hi hw).not_finish hs hp nofun (fun _ _ _ => not_finish_txnAfterStart) hx hne hat).elim
  | addrByte p =>
    exact ((runs_txnAddress hi hw).not_finish hs hp nofun (fun _ _ _ => not_finish_afterAddress) hx hne hat).elim
  | writeByte p =>
    obtain rfl | rfl := hi
    · exact ((runs_writeTxn_payload addr true count).not_finish hs hp nofun (fun _ _ _ => not_finish_afterPayload) hx
        hne hat).elim
    · simp [hp, ownPos] at ho
  | readByte p =>
    obtain rfl | rfl := hi
    · simp [hp, ownPos] at ho
    · exact ((runs_readTxn_payload hw).not_finish hs hp nofun (fun _ _ _ => by simp [atPos_goTo]) hx hne hat).elim
  | store =>
    obtain rfl | rfl := hi
    · simp [hp, ownPos] at ho
    · rw [exec_readTxn_at_store hw hs hp] at hx
      obtain rfl := Host.Outcome.next.inj hx
      exact (not_finish_txnNextByte (first := .readByte .dirIn) nofun hat).elim
  | finish => exact (hfin hp).elim
  | init | transfer => obtain rfl | rfl := hi <;> simp [hp, ownPos] at ho

/-! ## A NACK -/

theorem ackStatus_of_nack {r : Byte} (h : r.getLsbD 0 = true) : ackStatus r = .slaveNack := by
  rw [ackStatus, if_pos h]

/-- Settles O33: WriteByte returns SlaveNack, and both continuations leave the loop. -/
theorem nackEndsTheLoopAtOnce : Obligations.NackEndsTheLoopAtOnce := by
  unfold Obligations.NackEndsTheLoopAtOnce
  rintro i addr stop count s q hi hw hs hp hnack
  have hst := ackStatus_of_nack hnack
  obtain hp | ⟨hp, rfl⟩ := hp
  · have hx := (runs_txnAddress hi hw).writeAck.exec_ret hs hp rfl
    rw [hst] at hx
    exact ⟨_, _, hx, rfl, rfl, rfl⟩
  · have hx := (runs_writeTxn_payload addr stop count).writeAck.exec_ret hs hp rfl
    rw [hst] at hx
    exact ⟨_, _, hx, rfl, rfl, rfl⟩

end Sys2Proof.Machine

/-! SUPPORT. Whole transactions without payload (R112 to R115, R120, R121): a NACK of the address byte, and a START that
fails. -/

namespace Sys2Proof.Machine

open Sys2Proof

/-! ## Attempts -/

section Attempts

variable {i : Instr} {addr : BitVec 7} {stop : Bool} {count : BitVec 8} {s : State} {w : Word} {l : Locals}

/-- A Start() that fails transiently, attempts remaining: the next attempt begins (R112). -/
theorem exec_failedAttempt (hi : IsTxn i addr stop count) (hw : WellFormed i)
    (hs : s.seq = some ⟨w, .start .check, l⟩) (ht : isTransient (pendingCheck s) = true) (ha : l.attempt < 3) :
    exec i s = .next (goTo ⟨w, .start .check, l⟩ (.start .check)
      { l with s := pendingCheck s, status := pendingCheck s, attempt := l.attempt + 1 } s) := by
  rw [(runs_txnStart hi hw).exec_ret hs rfl (startStep_check_fails (not_ok_of_isTransient ht)), txnAfterStart,
    if_pos ht]
  exact congrArg _ (if_pos ha)

/-- A Start() that fails transiently on the last attempt: the loop ends with its status (R112). -/
theorem exec_failedLastAttempt (hi : IsTxn i addr stop count) (hw : WellFormed i)
    (hs : s.seq = some ⟨w, .start .check, l⟩) (ht : isTransient (pendingCheck s) = true) (ha : l.attempt = 3) :
    exec i s = .next (txnLeave ⟨w, .start .check, l⟩ stop (pendingCheck s) { l with s := pendingCheck s } s) := by
  have hlast : ¬ l.attempt < Config.retryMax := by simp [ha, Config.retryMax]
  rw [(runs_txnStart hi hw).exec_ret hs rfl (startStep_check_fails (not_ok_of_isTransient ht)), txnAfterStart,
    if_pos ht, if_neg hlast]

theorem firstLocals_txn (hi : IsTxn i addr stop count) :
    (firstLocals i).attempt = 1 ∧ (firstLocals i).i = 0 ∧ firstPos i = .start .check := by
  obtain rfl | rfl := hi <;> exact ⟨rfl, rfl, rfl⟩

/-- The locals of the attempt after `k` failed ones. -/
def afterFailures (st : Status) (l : Locals) : Nat → Locals
  | 0 => l
  | k + 1 => { l with s := st, status := st, attempt := l.attempt + (k + 1) }

theorem afterFailures_attempt (st : Status) (l : Locals) (k : Nat) :
    (afterFailures st l k).attempt = l.attempt + k := by
  cases k <;> rfl

/-- `k` failed attempts, more remaining, have changed nothing but the sequencer. -/
theorem execSteps_failedAttempts (hi : IsTxn i addr stop count) (hw : WellFormed i) {k : Nat}
    (hs : s.seq = some ⟨w, .start .check, l⟩) (ht : isTransient (pendingCheck s) = true) (ha : l.attempt + k ≤ 3) :
    execSteps i k s = .next { s with seq := some ⟨w, .start .check, afterFailures (pendingCheck s) l k⟩ } := by
  induction k with
  | zero =>
    rw [afterFailures, ← hs]
    rfl
  | succ k ih =>
    have hmore : (afterFailures (pendingCheck s) l k).attempt < 3 := by
      rw [afterFailures_attempt]
      omega
    have h1 := exec_failedAttempt hi hw (s := { s with
      seq := some ⟨w, .start .check, afterFailures (pendingCheck s) l k⟩ }) rfl ht hmore
    rw [execSteps_add (ih (by omega)), execSteps_succ h1]
    cases k <;> rfl

end Attempts

/-- Settles O27. -/
theorem pendingFaultExhaustsTheRetries : Obligations.PendingFaultExhaustsTheRetries := by
  unfold Obligations.PendingFaultExhaustsTheRetries
  rintro i addr count s hi hw ⟨-, w, hs⟩ hc hf
  obtain ⟨htransient, hcode⟩ := pendingCheck_pending hc hf
  obtain ⟨hattempt, -, hpos⟩ := firstLocals_txn hi
  rw [hpos] at hs
  constructor
  · intro k t hk hx
    rw [execSteps_failedAttempts hi hw hs htransient (by omega)] at hx
    obtain rfl := Host.Outcome.next.inj hx
    exact ⟨_, rfl, rfl, by rw [afterFailures_attempt, hattempt, Nat.add_comm]⟩
  · have h2 := execSteps_failedAttempts (k := 2) hi hw hs htransient (by omega)
    have h3 := exec_failedLastAttempt hi hw (s := { s with
      seq := some ⟨w, .start .check, afterFailures (pendingCheck s) (firstLocals i) 2⟩ }) rfl htransient
      (by rw [afterFailures_attempt, hattempt])
    rw [execSteps_add h2 (k := 2), execSteps_succ h3, execSteps_succ (finishes_txn hi hw _ rfl), ← hcode]
    rfl

/-! ## The peer beside a transaction -/

/-- A peer that lets the data line go in Start(), Stop() and at `finish`, and answers the address byte with `a`. -/
structure AnswersAddress (before : State → State) (a : Bool) : Prop where
  start : Steady before .start 0 fun _ _ => false
  addr : Steady before .addrByte 0 (ackInput a)
  stop : ∀ x, Steady before .stop x fun _ _ => false
  finish : ∀ x, Steady before (fun _ : Unit => .finish) x fun _ _ => false

theorem answers_free {host : State → State} (hhost : Reads host) :
    AnswersAddress (agents host fun _ => false) false where
  start := steady_const hhost _ 0 false
  addr := steady_free hhost _ 0
  stop x := steady_const hhost _ x false
  finish x := steady_const hhost _ x false

section Txn

variable {before : State → State} {a : Bool} {i : Instr} {addr : BitVec 7} {stop : Bool} {count : BitVec 8} {s : State}
  {q : Sequencer} {pos : Pos} {l' : Locals}

/-- A transaction's Start() on a free bus, and its address byte (R113). -/
theorem txn_address (hpeer : AnswersAddress before a) (hi : IsTxn i addr stop count) (hw : WellFormed i)
    (hs : s.seq = some q) (hp : q.pos = .start .check) (hx : q.loc.i = 0) (hb : AtBoundary s) (hq : PeerQuiet s)
    (hok : pendingCheck s = .ok)
    (hk : Returns (afterAddress i stop count) q (if a then .ok else .slaveNack) (afterWrite a { q.loc with s := .ok })
      pos l') :
    ∃ y, Reach before i 72 s (goTo q pos l' { s with
      sclPort := false, envSdaLow := a, latch := y, sr := 0xFF, cnt := 0, oif := true, sif := false,
      pf := false }) := by
  obtain ⟨henv, hsda⟩ := hq
  have hst : startStatus s = .ok := by simp [startStatus, sifAfterStart, henv, hsda]
  have h1 := (runs_txnStart hi hw).start hpeer.start hs hp hx hsda hb hok (pos := .addrByte .clockLow)
    (l' := { q.loc with s := .ok }) (by rw [hst]; exact fun _ _ _ => rfl)
  obtain ⟨y, h2⟩ := (runs_txnAddress hi hw).write (fun _ _ _ _ _ => rfl) hpeer.addr rfl rfl hx (.inl hsda) hb.2 henv hk
    (s := goTo q (.addrByte .clockLow) { q.loc with s := .ok } { s with sclPort := false, sif := sifAfterStart s })
  exact ⟨y, h1.trans h2⟩

/-- The end of a transaction's loop: its stop, if asked for, whose Ok replaces the status, and `finish` (R114). -/
theorem txn_ending (hpeer : AnswersAddress before a) (hi : IsTxn i addr stop count) (hw : WellFormed i)
    {st : Status} {l : Locals} (hb : AtBoundary s) (hport : s.sclPort = false) (henv : s.envSclLow = false)
    (hpf : s.pf = false) :
    Reach before i (endLeft stop) (txnLeave q stop st l s)
      (finish (if stop then .ok else st) none { s with sclPort := stop, envSdaLow := false }) := by
  obtain ⟨hdir, hdd, hsr, hdp⟩ := boundaryOk_iff.mp hb.2
  have hlow := sclLevel_driven hdir hport
  cases stop with
  | false =>
    have h := (finishes_txn hi hw).reach (before := before) (s := txnLeave q false st l s) (e := false)
      (hpeer.finish l.i _ _ () rfl rfl rfl (.inr hlow)) rfl
    exact h.to (by simp [finish, txnLeave, goTo, withSda, hport])
  | true =>
    have h1 := (runs_txnStop hi hw).stop_toWait (hpeer.stop l.i) (s := txnLeave q true st l s) rfl rfl rfl (.inr hlow)
      hb
    have h2 := h1.trans ((runs_txnStop hi hw).stop_fromWait (hpeer.stop l.i) rfl rfl rfl rfl henv hb.1 (by
      simp [stopOk, lineOk, txnLeave, goTo, hdir, hdd, hsr]) fun _ _ _ => rfl)
    have h3 := h2.trans ((finishes_txn hi hw).reach (e := false) (hpeer.finish l.i _ _ () rfl rfl rfl (.inl rfl)) rfl)
    exact h3.to (by simp [finish, txnLeave, goTo, withSda, stopStatus, hport, hdp, hpf])

/-- A transaction on a free bus whose address byte is not acknowledged (R115 (a), (b), R120 (a)). -/
theorem txn_nack (hpeer : AnswersAddress before false) (hi : IsTxn i addr stop count) (hw : WellFormed i)
    (hj : JustIssued i s) (hb : AtBoundary s) (hq : PeerQuiet s) (hok : pendingCheck s = .ok) :
    ∃ y, Reach before i (72 + endLeft stop) s (finish (if stop then .ok else .slaveNack) none { s with
      sclPort := stop, envSdaLow := false, latch := y, sr := 0xFF, cnt := 0, oif := true, sif := false,
      pf := false }) := by
  obtain ⟨-, w, hs⟩ := hj
  obtain ⟨-, hx, hp⟩ := firstLocals_txn hi
  obtain ⟨hcfg, hbd⟩ := hb
  obtain ⟨hdir, hdd, hsr, hdp⟩ := boundaryOk_iff.mp hbd
  rw [hp] at hs
  obtain ⟨y, h1⟩ := txn_address hpeer hi hw hs rfl hx ⟨hcfg, hbd⟩ hq hok fun _ _ _ => rfl
  exact ⟨y, h1.trans (txn_ending hpeer hi hw (s := { s with
    sclPort := false, envSdaLow := false, latch := y, sr := 0xFF, cnt := 0, oif := true, sif := false, pf := false })
    ⟨hcfg, boundaryOk_iff.mpr ⟨hdir, hdd, rfl, hdp⟩⟩ rfl hq.1 rfl)⟩

end Txn

/-- Settles O26. -/
theorem addressNackEndsTheTransaction : Obligations.AddressNackEndsTheTransaction := by
  unfold Obligations.AddressNackEndsTheTransaction
  intro i addr stop count s hi hw hj hb hq hsif hpf
  have hok : pendingCheck s = .ok := pendingCheck_free hb hq.2 hsif hpf
  obtain ⟨y, hrun⟩ := txn_nack (answers_free reads_id) hi hw hj hb hq hok
  obtain ⟨w, d, h⟩ := hrun.exists_next
  obtain ⟨hdir, hdd, hsr, hdp⟩ := boundaryOk_iff.mp hb.2
  have hsteps : (if stop then 80 else 73) = 72 + endLeft stop := by cases stop <;> rfl
  rw [hsteps, execSteps_eq _ _ hq.2]
  refine ⟨_, h, rfl, ?_, rfl, rfl, ?_⟩
  · cases stop <;> rfl
  · exact linesWord_boundary (boundaryOk_iff.mpr ⟨hdir, hdd, rfl, hdp⟩) ⟨hq.1, rfl⟩

/-- Settles O28: the clock held, Start() makes no start condition, and its status is not a transient one. -/
theorem missingStartIsNotRetried : Obligations.MissingStartIsNotRetried := by
  unfold Obligations.MissingStartIsNotRetried
  rintro i addr count s hi hw ⟨-, w, hs⟩ hb hscl hsda hsif hpf hverify
  obtain ⟨-, hx, hp⟩ := firstLocals_txn hi
  rw [hp] at hs
  have hok : pendingCheck s = .ok := pendingCheck_free hb hsda hsif hpf
  have hst : startStatus s = .missingStartCondition := by simp [startStatus, sifAfterStart, hscl, hsif, hverify]
  have h1 := (runs_txnStart hi hw).start (answers_free reads_id).start hs rfl hx hsda hb hok (pos := .finish)
    (l' := { firstLocals i with s := .missingStartCondition, status := .missingStartCondition })
    (by rw [hst]; exact fun _ _ _ => rfl)
  have h2 := h1.trans ((finishes_txn hi hw).reach (brings_agents reads_id (fun _ _ => rfl) (.inl hsda)) rfl)
  obtain ⟨w', d, h⟩ := h2.exists_next
  rw [execSteps_eq _ _ hsda]
  exact ⟨_, h, rfl, rfl, rfl⟩

end Sys2Proof.Machine

/-! SUPPORT. Whole transactions with their payload (R113, R115 to R119). -/

namespace Sys2Proof.Machine

open Sys2Proof

/-! ## The peers beside a transaction -/

theorem answers_ackPull : AnswersAddress (agents id ackPull) true where
  start := steady_pull fun u q p hu hp _ => by simp [ackPull, hu, hp]
  addr := steady_pull fun u q p hu hp _ => by cases p <;> simp [ackPull, hu, hp, ackInput]
  stop _ := steady_pull fun u q p hu hp _ => by simp [ackPull, hu, hp]
  finish _ := steady_pull fun u q p hu hp _ => by simp [ackPull, hu, hp]

theorem answers_sendPull (bytes : BitVec 8 → Byte) : AnswersAddress (agents id (sendPull bytes)) true where
  start := steady_pull fun u q p hu hp _ => by simp [sendPull, hu, hp]
  addr := steady_pull fun u q p hu hp _ => by cases p <;> simp [sendPull, hu, hp, ackInput]
  stop _ := steady_pull fun u q p hu hp _ => by simp [sendPull, hu, hp]
  finish _ := steady_pull fun u q p hu hp _ => by simp [sendPull, hu, hp]

/-! ## WRITE_TXN's payload -/

section Payload

variable {before : State → State} {addr : BitVec 7} {stop : Bool} {count : BitVec 8} {s : State} {q : Sequencer}
  {m : Nat}

/-- The payload bytes of WRITE_TXN from byte `q.loc.i` on, each acknowledged; `m` more follow the first. -/
theorem writeTxn_payload (hb : ∀ x, Steady before .writeByte x (ackInput true)) (hs : s.seq = some q)
    (hp : q.pos = .writeByte .clockLow) (hm : q.loc.i.toNat + 1 + m = count.toNat) (hbd : boundaryOk s = true)
    (hport : s.sclPort = false) (henv : s.envSclLow = false) :
    ∃ y l, Reach before (.writeTxn addr stop count) (63 * (m + 1)) s (txnLeave q stop .ok l { s with
      envSdaLow := true, latch := y, sr := 0xFF, cnt := 0, oif := true, sif := false,
        pf := false }) := by
  have hrun := runs_writeTxn_payload addr stop count
  induction m generalizing s q with
  | zero =>
    have hlast : moreBytes q.loc.i count = false := by simp [moreBytes, ← hm]
    obtain ⟨y, h⟩ := hrun.write (fun _ _ _ hb he => bufRead_congr hb he _) (hb _) hs hp rfl
      (.inr (sclLevel_driven (boundaryOk_iff.mp hbd).1 hport)) hbd henv
      (pos := if stop then .stop .dataLow else .finish)
      (l' := { afterWrite true q.loc with status := .ok })
      fun p₀ l₀ u => by simp [afterPayload, txnNextByte, afterWrite, hlast, txnLeave, goTo]
    exact ⟨y, afterWrite true q.loc, h.to (by simp [txnLeave, goTo, hport])⟩
  | succ m ih =>
    obtain ⟨hdir, hdd, -, hdp⟩ := boundaryOk_iff.mp hbd
    have hmore : moreBytes q.loc.i count = true := by simp [moreBytes, ← hm]
    have hnext : (q.loc.i + 1).toNat = q.loc.i.toNat + 1 := toNat_add_one (c := count) (by omega)
    obtain ⟨y, h1⟩ := hrun.write (fun _ _ _ hb he => bufRead_congr hb he _) (hb _) hs hp rfl
      (.inr (sclLevel_driven hdir hport)) hbd henv (pos := .writeByte .clockLow)
      (l' := { afterWrite true q.loc with i := q.loc.i + 1 })
      fun p₀ l₀ u => by simp [afterPayload, txnNextByte, afterWrite, hmore, goTo]
    obtain ⟨z, l, h2⟩ := ih (q := ⟨q.curCmd, .writeByte .clockLow, { afterWrite true q.loc with i := q.loc.i + 1 }⟩)
      (s := goTo q (.writeByte .clockLow) { afterWrite true q.loc with i := q.loc.i + 1 } { s with
        envSdaLow := true, latch := y, sr := 0xFF, cnt := 0, oif := true, sif := false, pf := false, sclPort := false })
      rfl rfl (by simp only [hnext]; omega) (boundaryOk_iff.mpr ⟨hdir, hdd, rfl, hdp⟩) rfl henv
    have h3 := h1.trans h2
    rw [show 63 + 63 * (m + 1) = 63 * (m + 1 + 1) by omega] at h3
    exact ⟨z, l, h3.to (by simp [txnLeave, goTo, hport])⟩

/-! ## READ_TXN's payload -/

theorem txnNextByte_blur {first : Pos} {l : Locals} (w : List Levels) (d : Word) :
    blur w d (txnNextByte q stop count first l s) = txnNextByte q stop count first l (blur w d s) := by
  unfold txnNextByte
  split <;> rfl

/-- READ_TXN's store step, with the clock low. -/
theorem readTxn_store (hw : WellFormed (.readTxn addr stop count)) (hb : Brings before false s)
    (hs : s.seq = some q) (hp : q.pos = .store) :
    Reach before (.readTxn addr stop count) 1 s
      (txnNextByte q stop count (.readByte .dirIn) q.loc (bufWrite q.loc.i q.loc.b (withSda false s))) := by
  refine .step hb fun w d => ⟨w, d, ?_⟩
  rw [exec_readTxn_at_store hw (s := blur w d (withSda false s)) hs hp, txnNextByte_blur]
  rfl

/-- A peer that sends byte `i` of `bytes` at byte index `i`, and lets the line go at the store step. -/
structure SendsBytes (before : State → State) (bytes : BitVec 8 → Byte) : Prop where
  byte : ∀ x, Steady before .readByte x (sendInput (bytes x))
  store : ∀ x, Steady before (fun _ : Unit => .store) x fun _ _ => false

variable {bytes : BitVec 8 → Byte}

/-- One payload byte of READ_TXN, received and stored. -/
theorem readTxn_byte (hw : WellFormed (.readTxn addr stop count)) (hpeer : SendsBytes before bytes)
    (hs : s.seq = some q) (hp : q.pos = .readByte .dirIn) (hbd : boundaryOk s = true) (hport : s.sclPort = false)
    (henv : s.envSclLow = false) :
    ∃ y, Reach before (.readTxn addr stop count) 64 s (txnNextByte q stop count (.readByte .dirIn)
      (afterRead (bytes q.loc.i) (moreBytes q.loc.i count) q.loc) (bufWrite q.loc.i (bytes q.loc.i) { s with
        envSdaLow := false, latch := y, sr := 0xFF, cnt := 0, oif := true, sif := false, pf := false })) := by
  obtain ⟨y, h1⟩ := (runs_readTxn_payload hw).read (fun l hl => by rw [hl]) (hpeer.byte _) hs hp rfl hbd hport henv
    fun _ _ _ => rfl
  have hlow := sclLevel_driven (boundaryOk_iff.mp hbd).1 hport
  have h2 := h1.trans (readTxn_store hw (hpeer.store q.loc.i _ _ () rfl rfl rfl (.inr hlow)) rfl rfl)
  refine ⟨y, h2.to ?_⟩
  unfold txnNextByte
  split <;> rfl

/-- The payload bytes of READ_TXN from byte `q.loc.i` on; `m` more follow the first. -/
theorem readTxn_payload (hw : WellFormed (.readTxn addr stop count)) (hpeer : SendsBytes before bytes)
    (hs : s.seq = some q) (hp : q.pos = .readByte .dirIn) (hm : q.loc.i.toNat + 1 + m = count.toNat)
    (hbd : boundaryOk s = true) (hport : s.sclPort = false) (henv : s.envSclLow = false) :
    ∃ y l m', Reach before (.readTxn addr stop count) (64 * (m + 1)) s (txnLeave q stop .ok l { s with
        envSdaLow := false, latch := y, sr := 0xFF, cnt := 0, oif := true, sif := false, pf := false, buf := m' }) ∧
      ∀ j : BitVec 8, bufRead j { s with buf := m' } =
        if q.loc.i.toNat ≤ j.toNat ∧ j.toNat < count.toNat then bytes j else bufRead j s := by
  induction m generalizing s q with
  | zero =>
    obtain ⟨y, h1⟩ := readTxn_byte (stop := stop) hw hpeer hs hp hbd hport henv
    have hlast : moreBytes q.loc.i count = false := by simp [moreBytes, ← hm]
    refine ⟨y, afterRead (bytes q.loc.i) false q.loc, (bufWrite q.loc.i (bytes q.loc.i) s).buf, h1.to ?_, fun j => ?_⟩
    · rw [hlast]
      exact if_neg (Bool.eq_false_iff.mp hlast)
    · have hj : q.loc.i.toNat ≤ j.toNat ∧ j.toNat < count.toNat ↔ j = q.loc.i := by
        rw [← BitVec.toNat_inj]
        omega
      refine (bufRead_bufWrite q.loc.i j (bytes q.loc.i) s).trans ?_
      simp only [hj]
      split <;> simp_all
  | succ m ih =>
    obtain ⟨y, h1⟩ := readTxn_byte (stop := stop) hw hpeer hs hp hbd hport henv
    obtain ⟨hdir, hdd, -, hdp⟩ := boundaryOk_iff.mp hbd
    have hmore : moreBytes q.loc.i count = true := by simp [moreBytes, ← hm]
    have hnext : (q.loc.i + 1).toNat = q.loc.i.toNat + 1 := toNat_add_one (c := count) (by omega)
    rw [hmore, txnNextByte, if_pos (by exact hmore)] at h1
    obtain ⟨z, l, m', h2, hread⟩ := ih (q := ⟨q.curCmd, .readByte .dirIn, { q.loc with
        b := bytes q.loc.i, result := ackPattern true, i := q.loc.i + 1 }⟩)
      (s := goTo q (.readByte .dirIn) { afterRead (bytes q.loc.i) true q.loc with i := q.loc.i + 1 }
        (bufWrite q.loc.i (bytes q.loc.i) { s with
          envSdaLow := false, latch := y, sr := 0xFF, cnt := 0, oif := true, sif := false, pf := false }))
      rfl rfl (by simp only [hnext]; omega) (boundaryOk_iff.mpr ⟨hdir, hdd, rfl, hdp⟩) hport henv
    have h3 := h1.trans h2
    rw [show 64 + 64 * (m + 1) = 64 * (m + 1 + 1) by omega] at h3
    refine ⟨z, l, m', h3, fun j => ?_⟩
    refine (hread j).trans ((if_congr Iff.rfl rfl (bufRead_bufWrite q.loc.i j (bytes q.loc.i) s)).trans ?_)
    simp only [hnext]
    by_cases hj : j = q.loc.i
    · subst hj
      simp only [if_true]
      rw [if_neg (by omega), if_pos (by omega)]
    · have hne : j.toNat ≠ q.loc.i.toNat := fun h => hj (BitVec.eq_of_toNat_eq h)
      have hiff : q.loc.i.toNat + 1 ≤ j.toNat ↔ q.loc.i.toNat ≤ j.toNat := by omega
      simp only [hj, if_false, hiff]

end Payload

theorem sends_sendPull (bytes : BitVec 8 → Byte) : SendsBytes (agents id (sendPull bytes)) bytes where
  byte := steady_sendPull bytes
  store _ := steady_pull fun u q p hu hp _ => by simp [sendPull, hu, hp]

/-! ## The transactions -/

section Whole

variable {before : State → State} {i : Instr} {addr : BitVec 7} {stop : Bool} {count : BitVec 8} {s : State}

theorem afterAddress_payload {q : Sequencer} {l : Locals} (hc : count ≠ 0) :
    afterAddress i stop count q .ok l s = goTo q (payloadPos i) { l with i := 0 } s := by
  rw [afterAddress, if_pos rfl, if_neg hc]

/-- A transaction with a payload, its address acknowledged, up to its first payload byte (R113, R117). -/
theorem txn_toPayload (hpeer : AnswersAddress before true) (hi : IsTxn i addr stop count) (hw : WellFormed i)
    (hc : count ≠ 0) (hj : JustIssued i s) (hb : AtBoundary s) (hq : PeerQuiet s) (hok : pendingCheck s = .ok) :
    ∃ y w l, l.i.toNat = 0 ∧ Reach before i 72 s (goTo ⟨w, payloadPos i, l⟩ (payloadPos i) l { s with
      sclPort := false, envSdaLow := true, latch := y, sr := 0xFF, cnt := 0, oif := true, sif := false,
        pf := false }) := by
  obtain ⟨-, w, hs⟩ := hj
  obtain ⟨-, hx, hp⟩ := firstLocals_txn hi
  rw [hp] at hs
  obtain ⟨y, h⟩ := txn_address hpeer hi hw hs rfl hx hb hq hok fun _ _ _ => afterAddress_payload hc
  exact ⟨y, w, _, rfl, h⟩

/-- WRITE_TXN beside a peer that acknowledges, up to the end of its loop. -/
theorem writeTxn_loop (hj : JustIssued (.writeTxn addr stop count) s) (hb : AtBoundary s) (hq : PeerQuiet s)
    (hok : pendingCheck s = .ok) :
    ∃ y q l, Reach (agents id ackPull) (.writeTxn addr stop count) (72 + 63 * count.toNat) s
      (txnLeave q stop .ok l { s with
        sclPort := false, envSdaLow := true, latch := y, sr := 0xFF, cnt := 0, oif := true, sif := false,
        pf := false }) := by
  have hi : IsTxn (.writeTxn addr stop count) addr stop count := .inl rfl
  by_cases hc : count = 0
  · subst hc
    obtain ⟨-, w, hs⟩ := hj
    obtain ⟨y, h⟩ := txn_address answers_ackPull hi rfl hs rfl rfl hb hq hok fun _ _ _ => rfl
    exact ⟨y, _, _, h⟩
  · have hpos : count.toNat ≠ 0 := fun h => hc (BitVec.eq_of_toNat_eq h)
    obtain ⟨y, w, l, hl, h1⟩ := txn_toPayload answers_ackPull hi rfl hc hj hb hq hok
    obtain ⟨hdir, hdd, hsr, hdp⟩ := boundaryOk_iff.mp hb.2
    obtain ⟨z, l', h2⟩ := writeTxn_payload (addr := addr) (stop := stop) (count := count) (m := count.toNat - 1)
      (q := ⟨w, .writeByte .clockLow, l⟩) steady_ackPull
      (s := goTo ⟨w, .writeByte .clockLow, l⟩ (.writeByte .clockLow) l
        { s with sclPort := false, envSdaLow := true, latch := y, sr := 0xFF, cnt := 0, oif := true, sif := false,
                 pf := false })
      rfl rfl (by simp only [hl]; omega) (boundaryOk_iff.mpr ⟨hdir, hdd, rfl, hdp⟩) rfl hq.1
    rw [show count.toNat - 1 + 1 = count.toNat by omega] at h2
    exact ⟨z, _, l', h1.trans h2⟩

/-- READ_TXN beside a peer that sends, up to the end of its loop. -/
theorem readTxn_loop {bytes : BitVec 8 → Byte} (hw : WellFormed (.readTxn addr stop count))
    (hj : JustIssued (.readTxn addr stop count) s) (hb : AtBoundary s) (hq : PeerQuiet s)
    (hok : pendingCheck s = .ok) :
    ∃ y q l m', Reach (agents id (sendPull bytes)) (.readTxn addr stop count) (72 + 64 * count.toNat) s
      (txnLeave q stop .ok l { s with
        sclPort := false, envSdaLow := false, latch := y, sr := 0xFF, cnt := 0, oif := true, sif := false, pf := false,
        buf := m' }) ∧
      ∀ j : BitVec 8, bufRead j { s with buf := m' } = if j.toNat < count.toNat then bytes j else bufRead j s := by
  have hpos : 1 ≤ count.toNat := by simpa only [WellFormed, wellFormed, decide_eq_true_eq] using hw
  have hc : count ≠ 0 := by
    rintro rfl
    exact absurd hpos (by decide)
  obtain ⟨y, w, l, hl, h1⟩ := txn_toPayload (answers_sendPull bytes) (.inr rfl) hw hc hj hb hq hok
  obtain ⟨hdir, hdd, hsr, hdp⟩ := boundaryOk_iff.mp hb.2
  obtain ⟨z, l', m', h2, hread⟩ := readTxn_payload hw (sends_sendPull bytes) (m := count.toNat - 1)
    (q := ⟨w, .readByte .dirIn, l⟩) (s := goTo ⟨w, .readByte .dirIn, l⟩ (.readByte .dirIn) l
      { s with sclPort := false, envSdaLow := true, latch := y, sr := 0xFF, cnt := 0, oif := true, sif := false,
               pf := false })
    rfl rfl (by simp only [hl]; omega) (boundaryOk_iff.mpr ⟨hdir, hdd, rfl, hdp⟩) rfl hq.1
  rw [show count.toNat - 1 + 1 = count.toNat by omega] at h2
  refine ⟨z, _, l', m', h1.trans h2, fun j => (hread j).trans ?_⟩
  simp only [hl, Nat.zero_le, true_and]
  rfl

end Whole

/-- Settles O29. -/
theorem acknowledgedWriteFinishesOk : Obligations.AcknowledgedWriteFinishesOk := by
  unfold Obligations.AcknowledgedWriteFinishesOk
  intro addr stop count s hj hb henv hsda hsif hpf
  obtain ⟨hdir, hdd, hsr, hdp⟩ := boundaryOk_iff.mp hb.2
  obtain ⟨y, q, l, hloop⟩ := writeTxn_loop hj hb ⟨henv, hsda⟩ (pendingCheck_free hb hsda hsif hpf)
  have hall := hloop.trans (txn_ending answers_ackPull (.inl rfl) rfl
    ⟨hb.1, boundaryOk_iff.mpr ⟨hdir, hdd, rfl, hdp⟩⟩ rfl henv rfl)
  obtain ⟨w, d, h⟩ := hall.exists_next
  rw [peerSteps_eq, show 9 + 63 * (count.toNat + 1) + (if stop then 7 else 0) + 1 =
    72 + 63 * count.toNat + endLeft stop by rw [endLeft]; omega]
  refine ⟨_, h, rfl, ?_, rfl, rfl, rfl, hb.1, boundaryOk_iff.mpr ⟨hdir, hdd, rfl, hdp⟩⟩
  cases stop <;> rfl

/-- Settles O31. -/
theorem readDeliversThePeersBytes : Obligations.ReadDeliversThePeersBytes := by
  unfold Obligations.ReadDeliversThePeersBytes
  intro addr stop count bytes s hw hj hb henv hsda hsif hpf
  obtain ⟨hdir, hdd, hsr, hdp⟩ := boundaryOk_iff.mp hb.2
  obtain ⟨y, q, l, m', hloop, hread⟩ := readTxn_loop (bytes := bytes) hw hj hb ⟨henv, hsda⟩
    (pendingCheck_free hb hsda hsif hpf)
  have hall := hloop.trans (txn_ending (answers_sendPull bytes) (.inr rfl) hw
    ⟨hb.1, boundaryOk_iff.mpr ⟨hdir, hdd, rfl, hdp⟩⟩ rfl henv rfl)
  obtain ⟨w, d, h⟩ := hall.exists_next
  rw [peerSteps_eq, show 9 + 63 + 64 * count.toNat + (if stop then 7 else 0) + 1 =
    72 + 64 * count.toNat + endLeft stop by rw [endLeft]; omega]
  refine ⟨_, h, rfl, ?_, rfl, rfl, ⟨hb.1, boundaryOk_iff.mpr ⟨hdir, hdd, rfl, hdp⟩⟩, hread⟩
  cases stop <;> rfl

end Sys2Proof.Machine

/-! SUPPORT. The host's WAIT (R88) as a run beside a host that polls STATUS, and readRegister without a device (R124,
R125 (a)). -/

namespace Sys2Proof.Machine

open Sys2Proof

/-- What the host does before each step it waits for, with no other device. -/
def poll : State → State := agents (fun s => { s with hostData := statusWord s }) fun _ => false

theorem poll_eq {s : State} (h : s.envSdaLow = false) : poll s = { s with hostData := statusWord s } :=
  (congrArg (envStep .sda · { s with hostData := statusWord s }) h.symm).trans (envStep_sda_same _)

/-- The command `i` runs, and no other agent is to step. -/
def Alone (i : Instr) (s : State) : Prop :=
  s.busy = true ∧ s.agenda = [] ∧ s.envSdaLow = false ∧ ∃ q, s.seq = some q ∧ decode q.curCmd = .ok i

theorem Alone.step_eq {i : Instr} {s : State} (h : Alone i s) :
    step { s with hostData := statusWord s } = exec i (poll s) := by
  obtain ⟨hb, ha, he, q, hs, hd⟩ := h
  have hstep : step (poll s) = exec i { poll s with agenda := (poll s).agenda.tail } :=
    stepRunsTheLatchedCommand _ q i (by rw [poll_eq he]; simp [enginesTurn, hb, ha]) (by rw [poll_eq he]; exact hs) hd
  rw [poll_eq he] at hstep ⊢
  simpa [ha] using hstep

/-- A step leaves the command running, or ends it. -/
theorem Alone.next {i : Instr} {s t : State} (h : Alone i s) (hx : exec i (poll s) = .next t) :
    Alone i t ∨ t.seq = none := by
  obtain ⟨hb, ha, he, q, hs, hd⟩ := h
  rw [poll_eq he] at hx
  obtain ⟨-, henv, -, -, -, -, hagenda⟩ := exec_sameSurroundings hx
  obtain ⟨q', hq', -, rfl | ⟨-, st, rx, rfl, -⟩ | ⟨hfin, p, l, u, rfl, -⟩⟩ := exec_next hx
  · exact .inl ⟨hb, ha, he, q, hs, hd⟩
  · exact .inr rfl
  · obtain rfl : q = q' := Option.some.inj (hs.symm.trans hq')
    have hbusy := (exec_results hx fun ⟨r, hr, hp⟩ => hfin (by cases hq'.symm.trans hr; exact hp)).2.1
    exact .inl ⟨hbusy.trans hb, hagenda.trans ha, henv.trans he, _, rfl, hd⟩

theorem busSteps_succ_next {before : State → State} {i : Instr} {k : Nat} {s t : State}
    (h : busSteps before i (k + 1) s = .next t) :
    ∃ u, exec i (before s) = .next u ∧ busSteps before i k u = .next t := by
  rw [busSteps] at h
  cases hx : exec i (before s) with
  | next u =>
    rw [hx] at h
    exact ⟨u, rfl, h⟩
  | fault | refused =>
    rw [hx] at h
    cases h

/-- WAIT lets the command run; a command that has ended takes no further step. -/
theorem hostWait_run {i : Instr} {k : Nat} {s t : State} (m : Nat) (h : Alone i s)
    (hrun : busSteps poll i k s = .next t) : hostWait (k + m) s = hostWait m t := by
  induction k generalizing s with
  | zero =>
    rw [Nat.zero_add]
    exact congrArg (hostWait m) (Host.Outcome.next.inj hrun)
  | succ k ih =>
    obtain ⟨u, hx, hrest⟩ := busSteps_succ_next hrun
    rw [Nat.succ_add, hostWait_busy _ h.1 (h.step_eq.trans hx)]
    obtain hu | hu := h.next hx
    · exact ih hu hrest
    · cases k with
      | zero =>
        rw [Nat.zero_add]
        exact congrArg (hostWait m) (Host.Outcome.next.inj hrest)
      | succ k =>
        obtain ⟨v, hv, -⟩ := busSteps_succ_next hrest
        obtain ⟨q, hq, -⟩ := exec_next hv
        have hseq : (poll u).seq = u.seq := envStep_seq ..
        cases (hseq.trans hu).symm.trans hq

/-- ISSUE of a well-formed command on an idle configured engine. -/
theorem hostIssue_accepted {bound : Nat} {i : Instr} {s : State} (hw : WellFormed i) (hb : s.busy = false)
    (hcfg : s.cfg = true) : hostIssue bound i s = hostWait bound (issue (encode i) i s) := by
  have hx : hostAccess (.write 0x000 4 (encode i)) s = .next (issue (encode i) i s) :=
    cmdWrite_accepted hb (decode_encode hw) (.inl hcfg)
  simp only [hostIssue, hostDo, hx, HostRun.andThen]

theorem alone_issue {i : Instr} {s : State} (hw : WellFormed i) (ha : s.agenda = []) (he : s.envSdaLow = false) :
    Alone i (issue (encode i) i s) :=
  ⟨rfl, ha, he, _, rfl, decode_encode hw⟩

/-- The first phase of readRegister, with no device: the WRITE_TXN of `reg` gets a NACK. -/
theorem writePhase_nack {addr : BitVec 7} {reg : Byte} {s : State} (hb : AtBoundary s) (hq : PeerQuiet s)
    (hsif : s.sif = false) (hpf : s.pf = false) :
    ∃ t, busSteps poll (.writeTxn addr false 1) 73
        (issue (encode (.writeTxn addr false 1)) (.writeTxn addr false 1) (bufWrite 0 reg s)) = .next t ∧
      t.sclPort = false ∧ t.busy = false ∧ t.code = 6 ∧ ∀ j, bufRead j t = bufRead j (bufWrite 0 reg s) := by
  obtain ⟨y, hrun⟩ := txn_nack (answers_free reads_status) (.inl rfl) rfl
    (s := issue (encode (.writeTxn addr false 1)) (.writeTxn addr false 1) (bufWrite 0 reg s)) ⟨rfl, _, rfl⟩ hb hq
    (pendingCheck_free hb hq.2 hsif hpf)
  obtain ⟨w, d, h⟩ := hrun.exists_next
  rw [show 73 = 72 + endLeft false from rfl]
  exact ⟨_, h, rfl, rfl, rfl, fun _ => rfl⟩

/-- Settles O60. -/
theorem readRegisterWithoutDevice : Obligations.ReadRegisterWithoutDevice := by
  unfold Obligations.ReadRegisterWithoutDevice
  intro bound addr reg s hbound hbusy hb hq hsif hpf hagenda
  obtain ⟨m, rfl⟩ : ∃ m, bound = 73 + m := ⟨bound - 73, by omega⟩
  have hw : WellFormed (.writeTxn addr false 1) := rfl
  obtain ⟨t, hrun, hport, hbusyt, hcode, hbuf⟩ := writePhase_nack (addr := addr) (reg := reg) hb hq hsif hpf
  have hwait := hostWait_run m (alone_issue hw (s := bufWrite 0 reg s) hagenda hq.2) hrun
  refine ⟨bufRead 0 t, { t with hostData := (bufRead 0 t).setWidth 32 }, ?_, hport, hbusyt, fun j => ?_⟩
  · rw [readRegister, hostBufW_done 0 reg hbusy, HostRun.andThen_done, hostIssue_accepted hw (by exact hbusy)
      (by exact hb.1), hwait, hostWait_idle m hbusyt, HostRun.andThen_done, hostGetCode_done, HostRun.andThen_done,
      if_pos (by simp [hcode]), hostBufR_done 0 (by exact hbusyt), HostRun.andThen_done]
    simp only [hcode]
    rfl
  · exact (hbuf j).trans (bufRead_bufWrite 0 j reg s)

end Sys2Proof.Machine

/-! SUPPORT. The countdown is read only within a Transfer, past its preload: elsewhere a command's step is the same
whatever CNT holds, which is how the progress of every command (70 section 3) needs no bound on CNT at the start. -/

namespace Sys2Proof.Machine

open Sys2Proof

/-! ## Steps with another countdown -/

/-- `s` with its countdown at `c`. -/
def recount (c : BitVec 4) (s : State) : State := { s with cnt := c }

/-- The positions within a Transfer's count: past its preload. -/
def countsDown : Pos → Bool
  | .transfer p | .readByte (.data p) | .readByte (.ack p) => decide (p ≠ .preload)
  | .writeByte (.data p) | .writeByte (.ack p) | .addrByte (.data p) | .addrByte (.ack p) => decide (p ≠ .preload)
  | _ => false

/-- `x` with its state changed. -/
def ProcStep.mapState {π ρ : Type} (g : State → State) : ProcStep π ρ → ProcStep π ρ
  | .goto p l t => .goto p l (g t)
  | .ret r l t => .ret r l (g t)
  | .held => .held
  | .hung => .hung

theorem micro_recount {f : State → State} {c : BitVec 4} {s : State} (hf : f (recount c s) = recount c (f s)) :
    micro f (recount c s) = recount c (micro f s) := by
  have hdetect : detect (recount c s) (recount c (f s)) = recount c (detect s (f s)) := rfl
  have hlevels (u : State) : levels (recount c u) = levels u := rfl
  simp only [micro, commit, recordLines, hf, hdetect, hlevels]
  split <;> rfl

/-- The command's step from `s` does not read the countdown: it is overwritten, or kept. -/
def IgnoresCnt (i : Instr) (s : State) : Prop :=
  (∀ c, exec i (recount c s) = exec i s) ∨
    ∃ t, countsDown (posOf t) = false ∧ exec i s = .next t ∧ ∀ c, exec i (recount c s) = .next (recount c t)

section Runs

variable {π ρ : Type} {i : Instr} {inj : π → Pos} {f : π → Locals → State → ProcStep π ρ}
  {k : Sequencer → ρ → Locals → State → State} {s : State} {q : Sequencer} {p p' : π} {l : Locals}
  {g : State → State}

/-- The procedure's step `F` from `s` does not read the countdown. -/
def StepIgnoresCnt (F : State → ProcStep π ρ) (s : State) : Prop :=
  ∀ c, F (recount c s) = (F s).mapState (recount c)

theorem stepIgnoresCnt_goto {g : State → State} (hg : ∀ c, g (recount c s) = recount c (g s)) :
    StepIgnoresCnt (fun u => (.goto p l (micro g u) : ProcStep π ρ)) s :=
  fun c => congrArg (ProcStep.goto p l) (micro_recount (hg c))

/-- Where the command goes on after the procedure does not depend on the state, and is not within a count. -/
def Continues (k : Sequencer → ρ → Locals → State → State) : Prop :=
  ∀ q r l, ∃ p l', countsDown p = false ∧ ∀ u, k q r l u = goTo q p l' u

theorem Runs.ignoresCnt (h : Runs i inj f k) (hs : s.seq = some q) (hp : q.pos = inj p)
    (hf : StepIgnoresCnt (f p q.loc) s) (hq : countsDown (inj p) = false)
    (hgoto : ∀ p' l u, f p q.loc s = .goto p' l u → countsDown (inj p') = false) (hk : Continues k) :
    IgnoresCnt i s := by
  have hc (c : BitVec 4) : (recount c s).seq = some q := hs
  cases hx : f p q.loc s with
  | goto p' l u =>
    exact .inr ⟨goTo q (inj p') l u, hgoto p' l u hx, h.exec_goto hs hp hx, fun c =>
      h.exec_goto (t := recount c u) (hc c) hp (by rw [hf c, hx]; rfl)⟩
  | ret r l u =>
    obtain ⟨p', l', hp', hku⟩ := hk q r l
    refine .inr ⟨goTo q p' l' u, hp', ?_, fun c => ?_⟩
    · rw [← hku]
      exact h.exec_ret hs hp hx
    · have hret := h.exec_ret (hc c) hp (by rw [hf c, hx]; rfl)
      exact hret.trans (congrArg _ (hku (recount c u)))
  | held =>
    refine .inr ⟨s, ?_, h.exec_held hs hp hx, fun c => h.exec_held (hc c) hp (by rw [hf c, hx]; rfl)⟩
    rw [posOf, hs, ← hq, ← hp]
  | hung => exact .inl fun c => (h.exec_hung (hc c) hp (by rw [hf c, hx]; rfl)).trans (h.exec_hung hs hp hx).symm

/-- The preload overwrites the countdown. -/
theorem Runs.ignoresCnt_preload {inj : XferPos → Pos} {n : BitVec 4} {k : Sequencer → Byte → Locals → State → State}
    (h : Runs i inj (xferStep n) k) (hs : s.seq = some q) (hp : q.pos = inj .preload) : IgnoresCnt i s := by
  refine .inl fun c => ?_
  have hpre : preloadFlags n (micro id (recount c s)) = preloadFlags n (micro id s) := by
    rw [micro_id, micro_id]
    rfl
  rw [h s q .preload hs hp, h (recount c s) q .preload hs hp, xferStep, xferStep, hpre]
  rfl

end Runs

/-! ## The procedures -/

section Procedures

variable {s : State} {l : Locals}

theorem startStep_ignoresCnt (p : StartPos) : StepIgnoresCnt (startStep p l) s := by
  cases p with
  | check =>
    intro c
    have hcheck : pendingCheck (recount c s) = pendingCheck s := rfl
    rw [startStep, startStep, hcheck, micro_id, micro_id]
    split <;> rfl
  | verify =>
    intro c
    rw [startStep, startStep, micro_id, micro_id]
    rfl
  | _ => exact stepIgnoresCnt_goto fun _ => rfl

theorem stopStep_ignoresCnt (p : StopPos) : StepIgnoresCnt (stopStep p l) s := by
  cases p with
  | waitHigh =>
    intro c
    have hwait : waitSclHigh (recount c s) = waitSclHigh s := rfl
    rw [stopStep, stopStep, hwait, micro_id, micro_id]
    split <;> rfl
  | verify =>
    intro c
    rw [stopStep, stopStep, micro_id, micro_id]
    rfl
  | _ => exact stepIgnoresCnt_goto fun _ => rfl

variable {i : Instr} {q : Sequencer}

theorem Runs.ignoresCnt_write {inj : WritePos → Pos} {k : Sequencer → Status → Locals → State → State}
    {v : Locals → State → Byte} {p : WritePos} (h : Runs i inj (fun p l s => writeByteStep (v l s) p l s) k)
    (hv : ReadsBuf v) (hs : s.seq = some q) (hp : q.pos = inj p)
    (hinj : ∀ p, countsDown (inj p) = countsDown (.writeByte p)) (hq : countsDown (inj p) = false) (hk : Continues k) :
    IgnoresCnt i s := by
  cases p with
  | clockLow =>
    exact h.ignoresCnt hs hp (stepIgnoresCnt_goto fun _ => rfl) hq (fun _ _ _ hx => by cases hx; exact hinj _) hk
  | load =>
    refine h.ignoresCnt hs hp (fun c => ?_) hq (fun _ _ _ hx => by cases hx; exact hinj _) hk
    have hval : v q.loc (recount c s) = v q.loc s := hv _ _ _ rfl rfl
    simp only [hval]
    exact congrArg (ProcStep.goto _ _) (micro_recount rfl)
  | dirIn =>
    exact h.ignoresCnt hs hp (stepIgnoresCnt_goto fun _ => rfl) hq (fun _ _ _ hx => by cases hx; exact hinj _) hk
  | data x =>
    obtain rfl : x = .preload := by
      rw [hinj] at hq
      simpa [countsDown] using hq
    exact h.writeData.ignoresCnt_preload hs hp
  | ack x =>
    obtain rfl : x = .preload := by
      rw [hinj] at hq
      simpa [countsDown] using hq
    exact h.writeAck.ignoresCnt_preload hs hp

theorem Runs.ignoresCnt_read {k : Sequencer → Byte → Locals → State → State} {more : Locals → Bool} {p : ReadPos}
    (h : Runs i .readByte (fun p l => readByteStep (more l) p l) k) (hs : s.seq = some q) (hp : q.pos = .readByte p)
    (hq : countsDown (.readByte p) = false) (hk : Continues k) : IgnoresCnt i s := by
  cases p with
  | dirIn | dirOut | loadAck =>
    exact h.ignoresCnt hs hp (stepIgnoresCnt_goto fun _ => rfl) hq (fun _ _ _ hx => by cases hx; rfl) hk
  | data x =>
    obtain rfl : x = .preload := by simpa [countsDown] using hq
    exact h.readData.ignoresCnt_preload hs hp
  | ack x =>
    obtain rfl : x = .preload := by simpa [countsDown] using hq
    exact h.readAck.ignoresCnt_preload hs hp

theorem Runs.ignoresCnt_start {k : Sequencer → Status → Locals → State → State} {p : StartPos}
    (h : Runs i .start startStep k) (hs : s.seq = some q) (hp : q.pos = .start p) (hk : Continues k) : IgnoresCnt i s :=
  h.ignoresCnt hs hp (startStep_ignoresCnt p) rfl (fun _ _ _ _ => rfl) hk

theorem Runs.ignoresCnt_stop {k : Sequencer → Status → Locals → State → State} {p : StopPos}
    (h : Runs i .stop stopStep k) (hs : s.seq = some q) (hp : q.pos = .stop p) (hk : Continues k) : IgnoresCnt i s :=
  h.ignoresCnt hs hp (stopStep_ignoresCnt p) rfl (fun _ _ _ _ => rfl) hk

end Procedures

/-! ## Where the transactions go on -/

section Continues

variable (stop : Bool) (count : BitVec 8)

theorem countsDown_leave : countsDown (if stop then .stop .dataLow else .finish) = false := by
  cases stop <;> rfl

theorem continues_txnAfterStart : Continues fun q st l t => txnAfterStart q stop st l t := by
  intro q st l
  beta_reduce
  unfold txnAfterStart
  split_ifs
  · exact ⟨_, _, rfl, fun _ => rfl⟩
  · exact ⟨_, _, countsDown_leave stop, fun _ => rfl⟩
  · exact ⟨_, _, rfl, fun _ => rfl⟩
  · exact ⟨_, _, countsDown_leave stop, fun _ => rfl⟩

theorem countsDown_payloadPos (i : Instr) : countsDown (payloadPos i) = false := by
  cases i <;> rfl

theorem continues_afterAddress (i : Instr) : Continues (afterAddress i stop count) := by
  intro q st l
  unfold afterAddress
  split_ifs
  · exact ⟨_, _, countsDown_leave stop, fun _ => rfl⟩
  · exact ⟨_, _, countsDown_payloadPos i, fun _ => rfl⟩
  · exact ⟨_, _, countsDown_leave stop, fun _ => rfl⟩

theorem continues_txnNextByte {first : Pos} (hfirst : countsDown first = false) (q : Sequencer) (l : Locals) :
    ∃ p l', countsDown p = false ∧ ∀ u, txnNextByte q stop count first l u = goTo q p l' u := by
  unfold txnNextByte
  split_ifs
  · exact ⟨_, _, hfirst, fun _ => rfl⟩
  · exact ⟨_, _, countsDown_leave stop, fun _ => rfl⟩

theorem continues_afterPayload : Continues (afterPayload stop count) := by
  intro q st l
  unfold afterPayload
  split_ifs
  · exact continues_txnNextByte stop count rfl q l
  · exact ⟨_, _, countsDown_leave stop, fun _ => rfl⟩

theorem continues_goTo {ρ : Type} {p : Pos} (hp : countsDown p = false) (g : ρ → Locals → Locals) :
    Continues fun q r l t => goTo q p (g r l) t :=
  fun _ _ _ => ⟨_, _, hp, fun _ => rfl⟩

end Continues

/-! ## The commands -/

theorem exists_finishes {i : Instr} {q : Sequencer} (hw : WellFormed i) (hp : q.pos = .finish) :
    ∃ st rx, Finishes i q st rx := by
  obtain ⟨w, _, l⟩ := q
  obtain rfl : _ = Pos.finish := hp
  cases i with
  | init => exact ⟨_, _, finishes_init⟩
  | start => exact ⟨_, _, finishes_start⟩
  | stop => exact ⟨_, _, finishes_stop⟩
  | transfer n => exact ⟨_, _, finishes_transfer hw⟩
  | readByte more => exact ⟨_, _, finishes_readByte⟩
  | writeByte v => exact ⟨_, _, finishes_writeByte⟩
  | writeTxn addr stop count => exact ⟨_, _, finishes_txn (.inl rfl) hw⟩
  | readTxn addr stop count => exact ⟨_, _, finishes_txn (.inr rfl) hw⟩

theorem init_ignoresCnt {s : State} {q : Sequencer} (hs : s.seq = some q) (hp : q.pos = .init) :
    IgnoresCnt .init s := by
  obtain ⟨w, _, l⟩ := q
  obtain rfl : _ = Pos.init := hp
  refine .inl fun c => ?_
  have hx (u : State) (hu : u.seq = some ⟨w, .init, l⟩) :
      exec .init u = .next (goTo ⟨w, .init, l⟩ .finish l (initFlags (micro initLines u))) := withSeq_some _ hu
  rw [hx (recount c s) hs, hx s hs, micro_recount (f := initLines) (c := c) rfl]
  rfl

/-- Outside a Transfer's count no command's step reads the countdown. -/
theorem exec_ignoresCnt {i : Instr} {s : State} {q : Sequencer} (hw : WellFormed i) (hs : s.seq = some q)
    (ho : ownPos i q.pos = true) (hq : countsDown q.pos = false) : IgnoresCnt i s := by
  cases hp : q.pos with
  | finish =>
    obtain ⟨st, rx, h⟩ := exists_finishes hw hp
    exact .inr ⟨_, rfl, h s hs, fun c => h (recount c s) hs⟩
  | store =>
    rw [hp] at ho
    cases i with
    | readTxn addr stop count =>
      obtain ⟨p, l, hp', hk⟩ := continues_txnNextByte stop count (first := .readByte .dirIn) rfl q q.loc
      refine .inr ⟨goTo q p l (bufWrite q.loc.i q.loc.b s), hp', ?_, fun c => ?_⟩
      · rw [exec_readTxn_at_store hw hs hp, hk]
      · rw [exec_readTxn_at_store hw (s := recount c s) hs hp, hk]
        rfl
    | _ => simp [ownPos] at ho
  | init =>
    rw [hp] at ho
    cases i with
    | init => exact init_ignoresCnt hs hp
    | _ => simp [ownPos] at ho
  | start p =>
    rw [hp] at ho
    cases i with
    | start => exact runs_start.ignoresCnt_start hs hp (continues_goTo rfl fun _ l => l)
    | writeTxn addr stop count =>
      exact (runs_txnStart (.inl rfl) hw).ignoresCnt_start hs hp (continues_txnAfterStart stop)
    | readTxn addr stop count =>
      exact (runs_txnStart (.inr rfl) hw).ignoresCnt_start hs hp (continues_txnAfterStart stop)
    | _ => simp [ownPos] at ho
  | stop p =>
    rw [hp] at ho
    cases i with
    | stop => exact runs_stop.ignoresCnt_stop hs hp (continues_goTo rfl fun _ l => l)
    | writeTxn addr stop count =>
      exact (runs_txnStop (.inl rfl) hw).ignoresCnt_stop hs hp (continues_goTo rfl fun st l => { l with status := st })
    | readTxn addr stop count =>
      exact (runs_txnStop (.inr rfl) hw).ignoresCnt_stop hs hp (continues_goTo rfl fun st l => { l with status := st })
    | _ => simp [ownPos] at ho
  | transfer p =>
    rw [hp] at ho hq
    obtain rfl : p = .preload := by simpa [countsDown] using hq
    cases i with
    | transfer n => exact (runs_transfer hw).ignoresCnt_preload hs hp
    | _ => simp [ownPos] at ho
  | readByte p =>
    rw [hp] at ho hq
    cases i with
    | readByte more =>
      exact (runs_readByte more).ignoresCnt_read hs hp hq (continues_goTo rfl fun b l => { l with b := b })
    | readTxn addr stop count =>
      exact (runs_readTxn_payload hw).ignoresCnt_read hs hp hq (continues_goTo rfl fun b l => { l with b := b })
    | _ => simp [ownPos] at ho
  | writeByte p =>
    rw [hp] at ho hq
    cases i with
    | writeByte v =>
      exact (runs_writeByte v).ignoresCnt_write (fun _ _ _ _ _ => rfl) hs hp (fun _ => rfl) hq
        (continues_goTo rfl fun _ l => l)
    | writeTxn addr stop count =>
      exact (runs_writeTxn_payload addr stop count).ignoresCnt_write (fun _ _ _ hb he => bufRead_congr hb he _) hs hp
        (fun _ => rfl) hq (continues_afterPayload stop count)
    | _ => simp [ownPos] at ho
  | addrByte p =>
    rw [hp] at ho hq
    have hinj (x : WritePos) : countsDown (.addrByte x) = countsDown (.writeByte x) := by cases x <;> rfl
    cases i with
    | writeTxn addr stop count =>
      exact (runs_txnAddress (.inl rfl) hw).ignoresCnt_write (fun _ _ _ _ _ => rfl) hs hp hinj hq
        (continues_afterAddress stop count _)
    | readTxn addr stop count =>
      exact (runs_txnAddress (.inr rfl) hw).ignoresCnt_write (fun _ _ _ _ _ => rfl) hs hp hinj hq
        (continues_afterAddress stop count _)
    | _ => simp [ownPos] at ho

end Sys2Proof.Machine

/-! SUPPORT. The progress of every command with the clock not held (70_reset_and_hazards.md section 3). -/

namespace Sys2Proof.Machine

open Sys2Proof

section Recount

variable {low : Bool} {i : Instr} {q : Sequencer} {s : State} (c : BitVec 4)

theorem readOk_recount {p : ReadPos} (h : countsDown (.readByte p) = false) :
    readOk low p (recount c s) = readOk low p s := by
  cases p with
  | data x | ack x =>
    obtain rfl : x = .preload := by simpa [countsDown] using h
    rfl
  | _ => rfl

theorem writeOk_recount {p : WritePos} (h : countsDown (.writeByte p) = false) :
    writeOk p (recount c s) = writeOk p s := by
  cases p with
  | data x | ack x =>
    obtain rfl : x = .preload := by simpa [countsDown] using h
    rfl
  | _ => rfl

theorem xferOk_recount {n : BitVec 4} {p : XferPos} (h : countsDown (.transfer p) = false) :
    xferOk low n p (recount c s) = xferOk low n p s := by
  obtain rfl : p = .preload := by simpa [countsDown] using h
  rfl

theorem writeOk_recount_addr {p : WritePos} (h : countsDown (.addrByte p) = false) :
    writeOk p (recount c s) = writeOk p s :=
  writeOk_recount c (by cases p <;> exact h)

/-- Outside a count the drivers of a position do not speak of the countdown. -/
theorem posOk_recount (h : countsDown q.pos = false) : posOk low i q (recount c s) = posOk low i q s := by
  obtain ⟨w, p, l⟩ := q
  cases p with
  | transfer p => cases i <;> simp only [posOk, txnPosOk, xferOk_recount c h]
  | readByte p => cases i <;> simp only [posOk, txnPosOk, readOk_recount c h]
  | writeByte p => cases i <;> simp only [posOk, txnPosOk, writeOk_recount c h]
  | addrByte p => cases i <;> simp only [posOk, txnPosOk, writeOk_recount_addr c h]
  | _ => cases i <;> rfl

theorem readLeft_of_not_counting {p : ReadPos} (h : countsDown (.readByte p) = false) (a b : Nat) :
    readLeft a p = readLeft b p := by
  cases p with
  | data x | ack x =>
    obtain rfl : x = .preload := by simpa [countsDown] using h
    rfl
  | _ => rfl

theorem writeLeft_of_not_counting {p : WritePos} (h : countsDown (.writeByte p) = false) (a b : Nat) :
    writeLeft a p = writeLeft b p := by
  cases p with
  | data x | ack x =>
    obtain rfl : x = .preload := by simpa [countsDown] using h
    rfl
  | _ => rfl

/-- Outside a count the steps left do not depend on the countdown. -/
theorem stepsLeft_recount (h : countsDown q.pos = false) : stepsLeft i q (recount c s) = stepsLeft i q s := by
  obtain ⟨w, p, l⟩ := q
  cases p with
  | transfer p =>
    obtain rfl : p = .preload := by simpa [countsDown] using h
    cases i <;> rfl
  | readByte p =>
    have hread := readLeft_of_not_counting h c.toNat s.cnt.toNat
    cases i <;> simp only [stepsLeft, txnLeft, recount, hread]
  | writeByte p =>
    have hwrite := writeLeft_of_not_counting h c.toNat s.cnt.toNat
    cases i <;> simp only [stepsLeft, txnLeft, recount, hwrite]
  | addrByte p =>
    have hwrite := writeLeft_of_not_counting (p := p) (by cases p <;> exact h) c.toNat s.cnt.toNat
    cases i <;> simp only [stepsLeft, txnLeft, recount, hwrite]
  | _ => cases i <;> rfl

theorem cnt_le_of_xferOk {n : BitVec 4} {p : XferPos} (h8 : n.toNat ≤ 8) (h : xferOk low n p s = true)
    (hp : p ≠ .preload) : s.cnt.toNat ≤ 8 := by
  have hzero (hc : s.cnt = 0) : s.cnt.toNat ≤ 8 := by rw [hc]; exact Nat.zero_le 8
  have hcount (hc : counting n s = true) : s.cnt.toNat ≤ 8 := (counting_iff.mp hc).2.1.trans h8
  cases p with
  | preload => exact (hp rfl).elim
  | capture =>
    simp only [xferOk, Bool.and_eq_true, decide_eq_true_eq] at h
    obtain ⟨-, ⟨hc, -⟩, -⟩ := h
    exact hzero hc
  | dirOut =>
    simp only [xferOk, Bool.and_eq_true, decide_eq_true_eq] at h
    obtain ⟨-, ⟨⟨hc, -⟩, -⟩, -⟩ := h
    exact hzero hc
  | _ =>
    simp only [xferOk, Bool.and_eq_true] at h
    obtain ⟨-, hc, -⟩ := h
    exact hcount hc

theorem cnt_le_of_readOk {p : ReadPos} (h : readOk low p s = true) (hp : countsDown (.readByte p) = true) :
    s.cnt.toNat ≤ 8 := by
  cases p with
  | data x | ack x => exact cnt_le_of_xferOk (by decide) h (by simpa [countsDown] using hp)
  | _ => cases hp

theorem cnt_le_of_writeOk {p : WritePos} (h : writeOk p s = true) (hp : countsDown (.writeByte p) = true) :
    s.cnt.toNat ≤ 8 := by
  cases p with
  | data x | ack x => exact cnt_le_of_xferOk (by decide) h (by simpa [countsDown] using hp)
  | _ => cases hp

/-- Within a count the countdown is at most the count's start (R23). -/
theorem cnt_le_of_posOk (hw : WellFormed i) (h : posOk low i q s = true) (hq : countsDown q.pos = true) :
    s.cnt.toNat ≤ 8 := by
  obtain ⟨w, p, l⟩ := q
  cases p with
  | transfer p =>
    cases i with
    | transfer n => exact cnt_le_of_xferOk (transfer_operand hw).2 h (by simpa [countsDown] using hq)
    | _ => simp [posOk, txnPosOk] at h
  | readByte p =>
    cases i with
    | readByte more => exact cnt_le_of_readOk h hq
    | readTxn addr stop count => exact cnt_le_of_readOk (Bool.and_eq_true _ _ |>.mp h).1 hq
    | _ => simp [posOk, txnPosOk] at h
  | writeByte p =>
    cases i with
    | writeByte v => exact cnt_le_of_writeOk h hq
    | writeTxn addr stop count => exact cnt_le_of_writeOk (Bool.and_eq_true _ _ |>.mp h).1 hq
    | _ => simp [posOk, txnPosOk] at h
  | addrByte p =>
    have hq' : countsDown (.writeByte p) = true := by cases p <;> exact hq
    cases i with
    | writeTxn addr stop count => exact cnt_le_of_writeOk h hq'
    | readTxn addr stop count => exact cnt_le_of_writeOk h hq'
    | _ => simp [posOk] at h
  | _ => cases hq

end Recount

/-! ## One step -/

/-- The command has ended at a boundary, with a code of the table (R80). -/
def Ended (t : State) : Prop := t.busy = false ∧ t.seq = none ∧ boundaryOk t = true ∧ t.code.toNat ≤ 6

/-- What a step of the command `i`, the clock not held, leads to: on with fewer steps left, or its end. -/
def Advances (i : Instr) (q : Sequencer) (s t : State) : Prop :=
  (s.cfg = true → t.cfg = true) ∧
    ((∃ r, t.seq = some r ∧ posOk true i r t = true ∧ stepsLeft i r t < stepsLeft i q s) ∨ (q.pos = .finish ∧ Ended t))

section Advances

variable {i : Instr} {q : Sequencer} {s t : State}

theorem exec_advances_of_cnt (hw : WellFormed i) (hs : s.seq = some q) (hpos : posOk true i q s = true)
    (henv : s.envSclLow = false) (hc : s.cnt.toNat ≤ 8) : ∃ t, exec i s = .next t ∧ Advances i q s t := by
  have hspec := exec_spec hw hs hc hpos
  cases hx : exec i s with
  | next t =>
    rw [hx] at hspec
    refine ⟨t, rfl, ?_⟩
    obtain ⟨-, hheld⟩ | ⟨r, hg⟩ | ⟨hp, hb, st, rx, rfl, -⟩ := hspec
    · cases henv.symm.trans hheld
    · exact ⟨fun h => hg.cfg.elim id fun hc => hc.1.trans h, .inl ⟨r, hg.seq, hg.ok, hg.less⟩⟩
    · exact ⟨id, .inr ⟨hp, rfl, rfl, hb, toNat_encStatus_le st⟩⟩
  | fault f =>
    rw [hx] at hspec
    obtain ⟨-, hlow, -⟩ := hspec
    cases hlow
  | refused r =>
    rw [hx] at hspec
    exact hspec.elim

/-- Outside a count an advance does not speak of the countdown. -/
theorem advances_recount (hq : countsDown q.pos = false) (ht : countsDown (posOf t) = false) (c : BitVec 4)
    (h : Advances i q (recount c s) (recount c t)) : Advances i q s t := by
  obtain ⟨hcfg, ⟨r, hr, hok, hless⟩ | hend⟩ := h
  · have hr' : t.seq = some r := hr
    have hrpos : countsDown r.pos = false := by rwa [posOf, hr'] at ht
    rw [posOk_recount c hrpos] at hok
    rw [stepsLeft_recount c hrpos, stepsLeft_recount c hq] at hless
    exact ⟨hcfg, .inl ⟨r, hr, hok, hless⟩⟩
  · exact ⟨hcfg, .inr hend⟩

/-- A command's step advances from every countdown, the clock not held. -/
theorem exec_advances (hw : WellFormed i) (hs : s.seq = some q) (hpos : posOk true i q s = true)
    (henv : s.envSclLow = false) : ∃ t, exec i s = .next t ∧ Advances i q s t := by
  cases hq : countsDown q.pos with
  | true => exact exec_advances_of_cnt hw hs hpos henv (cnt_le_of_posOk hw hpos hq)
  | false =>
    obtain ⟨u, hu, hadv⟩ := exec_advances_of_cnt (s := recount 0 s) hw hs ((posOk_recount 0 hq).trans hpos) henv
      (Nat.zero_le 8)
    obtain hsame | ⟨t, ht, hx, hrecount⟩ := exec_ignoresCnt hw hs (ownPos_of_posOk hpos) hq
    · refine ⟨u, (hsame 0).symm.trans hu, ?_⟩
      rwa [Advances, stepsLeft_recount 0 hq] at hadv
    · obtain rfl : recount 0 t = u := Host.Outcome.next.inj ((hrecount 0).symm.trans hu)
      exact ⟨t, hx, advances_recount hq ht 0 hadv⟩

theorem Advances.commandLeft_lt (h : Advances i q s t) (hs : s.seq = some q) : commandLeft i t < commandLeft i s := by
  rw [commandLeft_eq i hs]
  obtain ⟨-, ⟨r, hr, -, hless⟩ | ⟨hp, -, hseq, -⟩⟩ := h
  · rwa [commandLeft_eq i hr]
  · rw [stepsLeft_finish s hp, commandLeft, hseq]
    exact Nat.one_pos

end Advances

/-- Settles O57. -/
theorem unheldCommandStepsAnswer : Obligations.UnheldCommandStepsAnswer := by
  unfold Obligations.UnheldCommandStepsAnswer
  intro i s q hw hs hpos henv
  obtain ⟨t, hx, hadv⟩ := exec_advances hw hs hpos henv
  exact ⟨t, hx, hadv.commandLeft_lt hs⟩

/-! ## The whole command -/

/-- From any of its positions a command ends, the clock not held, within the steps it has left. -/
theorem execSteps_ends {i : Instr} (hw : WellFormed i) {n : Nat} {s : State} {q : Sequencer} (hs : s.seq = some q)
    (hpos : posOk true i q s = true) (henv : s.envSclLow = false) (hn : stepsLeft i q s ≤ n) :
    ∃ k t, k ≤ n ∧ execSteps i k s = .next t ∧ (s.cfg = true → t.cfg = true) ∧ Ended t := by
  induction n generalizing s q with
  | zero =>
    obtain ⟨t, hx, hadv⟩ := exec_advances hw hs hpos henv
    have hless := hadv.commandLeft_lt hs
    rw [commandLeft_eq i hs] at hless
    omega
  | succ n ih =>
    obtain ⟨t, hx, hcfg, ⟨r, hr, hok, hless⟩ | ⟨-, hend⟩⟩ := exec_advances hw hs hpos henv
    · obtain ⟨henvt, -⟩ := exec_sameSurroundings hx
      obtain ⟨k, u, hk, hsteps, hcfgu, hend⟩ := ih hr hok (henvt.trans henv) (by omega)
      exact ⟨k + 1, u, Nat.succ_le_succ hk, (execSteps_succ hx k).trans hsteps, hcfgu ∘ hcfg, hend⟩
    · exact ⟨1, t, by omega, execSteps_succ hx 0, hcfg, hend⟩

/-- Settles O58. -/
theorem everyIssuedCommandFinishes : Obligations.EveryIssuedCommandFinishes := by
  unfold Obligations.EveryIssuedCommandFinishes
  rintro i s hw ⟨-, w, hs⟩ ⟨hcfg, hb⟩ henv hlow
  obtain ⟨k, t, hk, hsteps, hcfgt, hbusy, hseq, hbd, hcode⟩ := execSteps_ends hw hs
    (posOk_firstPos (fun _ => hb) fun _ => hlow) henv le_rfl
  rw [commandLeft_eq i hs]
  exact ⟨k, t, hk, hsteps, hbusy, hseq, ⟨hcfgt hcfg, hbd⟩, hcode⟩

end Sys2Proof.Machine
